-- ==== Sys2Proof/Word.lean ====
section
/-! DEFINITION. The bit vectors the spec treats as bits: bytes of packets and frames, 64-byte lines, byte masks,
generations and notice sequences. Counts, sizes and indexes are Nat or Fin. -/

namespace Sys2Proof

/-- A byte of a packet, a frame or a response. -/
abbrev Byte := BitVec 8

/-- The 64 bytes of one line; byte `i` of the line is bits `8i+7..8i`. -/
abbrev LineData := BitVec 512

/-- Half a line, the 32 bytes of one WDATA packet. -/
abbrev HalfData := BitVec 256

/-- A WRITE's byte mask, bit `i` for byte `i` of the line (R193 Table 66). -/
abbrev ByteMask := BitVec 64

/-- An extent's generation, 0..65535, wrapping (R9). -/
abbrev Generation := BitVec 16

end Sys2Proof
end

