-- ==== Sys2Proof/Config.lean ====
section
/-! DEFINITION. What the NP-440 fixes (sizes, defaults) and the free values the spec leaves open. A free value is a
constant with no body: no proof can know what it is. -/

namespace Sys2Proof.Config

/-- Bytes of a segment, 256 MiB (00_scope Table 3). -/
abbrev segmentBytes : Nat := 268435456

/-- Lines of a segment, 4,194,304 (00_scope Table 3). -/
abbrev segmentLines : Nat := 4194304

/-- Bytes of an interleave block, 512 (00_scope Table 3). -/
abbrev blockBytes : Nat := 512

/-- Bytes of a line (00_scope Table 3). -/
abbrev lineBytes : Nat := 64

/-- Most layout ranges (R25). -/
abbrev maxRanges : Nat := 8

/-- Most change records in the change queue (R114). -/
abbrev changeQueueSize : Nat := 8

/-- Most completion records, the reservation counted (R140). -/
abbrev completionQueueSize : Nat := 16

/-- Most notices in one notice queue (R165). -/
abbrev noticeQueueSize : Nat := 8

/-- Most copy pairs in flight (R148). -/
abbrev maxPairs : Nat := 8

/-- Places of a work queue reserved to each origin (R96). -/
abbrev reservedPlaces : Nat := 4

/-- Shared places of a work queue (R96). -/
abbrev sharedPlaces : Nat := 12

/-- Default confirm limit in ms (R144). -/
abbrev defaultConfirmLimit : Nat := 1000

/-- Default drain limit in ms (R144). -/
abbrev defaultDrainLimit : Nat := 100

/-- Default bring-up limit in ms (R44). -/
abbrev defaultBringUpLimit : Nat := 20

/-- Default write data limit in microseconds (R76). -/
abbrev defaultWriteDataLimit : Nat := 50

/-- FREE VALUE (log 3). How much time a running timer has left when it is reported; the argument numbers the
report. The spec has no tick, so only the timer's limit bounds it. -/
opaque timeLeft : Nat → Nat

/-- FREE VALUE (log 12). Which of the contents that R112 and R113 allow a line holds after an operation on it was
cut; the argument numbers the cut operation. -/
opaque cutChoice : Nat → Nat

/-- FREE VALUE (log 13). What a line holds that no fill and no write has given contents. -/
opaque undefinedLine : Nat → LineData

/-- FREE VALUE (log 14). Whether the Management Unit's COMPLETION_POSTED enters a queue before the other producer's
notice of the same step (R167 allows either order). -/
opaque postedFirst : Nat → Bool

/-- FREE VALUE (log 21). The code of the active change's counted kind in READ_STATUS; Chapter 10 gives none. The
argument is true for WRITE only. -/
opaque countedKindCode : Bool → Byte

/-- FREE VALUE (log 21). The code of the active change's PENDING notice (0 none, 1 held, 2 sent) in READ_STATUS;
Chapter 10 gives none. -/
opaque pendingNoticeCode : Nat → Byte

/-- FREE VALUE (log 23). The data byte of a BREAK that displaced no port; R180 names the byte only for a port displaced.
The argument numbers the answer. -/
opaque nobodyDisplaced : Nat → Byte

end Sys2Proof.Config
end

