-- ==== Sys2Proof/Syntax.lean ====
section
/-! DEFINITION. The commands: one constructor per row of spec/opcode_table.json, in the table's order, with the
row's operands. A packet is carried as it was received (length field and body bytes), so that its field conditions
are the bridge's own to test (R194). -/

namespace Sys2Proof

/-- A pool link port, 0..3. -/
abbrev PortId := Fin 4

/-- A memory channel, CH0 or CH1. -/
abbrev ChannelId := Fin 2

/-- A copy pair number, 0..7 (R150). -/
abbrev PairNumber := Fin 8

/-- A management path (section 9.1): the I2C path or the in-band path of one port. -/
inductive MgmtPath where
  | i2c
  | inBand (p : PortId)
  deriving DecidableEq, Repr

/-- The levels of the strap pins at the moment they are sampled (R174, R181). -/
structure Straps where
  addr  : BitVec 2
  mgrEn : BitVec 4
  deriving DecidableEq, Repr

/-- A packet that passed the CRC check, after its kind byte: the length field and the body bytes received between
it and the CRC (R193). The received size is body length + 6. -/
structure RawPacket where
  len  : Byte
  body : List Byte
  deriving DecidableEq, Repr

/-- A configuration access (R59, R196). The table has no row for a configuration read; CONFIG_WRITE carries both
(log 10). -/
inductive ConfigAccess where
  | read (word : Byte)
  | write (word : Byte) (value : BitVec 64)
  deriving DecidableEq, Repr

/-- What the check bits of a line that is not poisoned show when it is read (R101). A poisoned line reads POISONED
whatever this says (log 11). -/
inductive MediaResult where
  | clean
  | correctable
  | uncorrectable
  deriving DecidableEq, Repr

/-- The part an operation of a DUAL entry performs (R95). -/
inductive Part where
  | source
  | destination
  deriving DecidableEq, Repr

/-- What detection reports of one module slot (R92). -/
inductive SlotReport where
  | noAnswer
  | empty
  | module (segments : Nat)
  deriving DecidableEq, Repr

/-- A management request as received (R197): the bytes of an I2C write frame, or the packet of an in-band one. -/
inductive MgmtFrame where
  | i2c (bytes : List Byte)
  | inBand (p : PortId) (pkt : RawPacket)
  deriving DecidableEq, Repr

/-- The operand bytes of SUBMIT (Table 68). -/
structure SubmitOperands where
  kind       : Byte
  presence   : BitVec 16
  extent     : Byte
  port       : Byte
  secondPort : Byte
  windowBase : BitVec 16
  rights     : Byte
  poolBase   : BitVec 16
  length     : BitVec 16
  shareMode  : Byte
  windowSize : BitVec 16
  confirm    : Byte
  force      : Byte
  deriving DecidableEq, Repr

/-- The commands of the bridge. -/
inductive Instr where
  -- power and reset (R189)
  | powerOn (straps : Straps)
  | pwrgoodDeasserted
  | resetNFallingEdge
  | resetNRise (straps : Straps)
  | bridgeReset (path : MgmtPath)
  -- link events (Chapter 3)
  | partnerDetected (p : PortId)
  | trainingComplete (p : PortId)
  | trainingFailed (p : PortId)
  | linkLost (p : PortId)
  | bringUpTimerExpiry (p : PortId)
  -- packets (Chapters 3, 4, 8)
  | packetCrcDrop (p : PortId) (bytes : List Byte)
  | undefinedPacket (p : PortId) (kind : Byte) (pkt : RawPacket)
  | read (p : PortId) (pkt : RawPacket)
  | write (p : PortId) (pkt : RawPacket)
  | wdata (p : PortId) (pkt : RawPacket)
  | writeDataTimerExpiry (p : PortId) (tag : Byte)
  | noticeAck (p : PortId) (pkt : RawPacket)
  -- configuration words (sections 3.3, 3.5, 3.8)
  | windowAccept (p : PortId) (value : BitVec 64)
  | portOpen (p : PortId) (value : BitVec 64)
  | portClose (p : PortId) (value : BitVec 64)
  | configWrite (p : PortId) (access : ConfigAccess)
  | closeComplete (p : PortId)
  -- channels (Chapters 4, 5, 7)
  | admission (c : ChannelId)
  | copyPairAdmission (c : ChannelId)
  | readComplete (c : ChannelId) (p : PortId) (tag : Byte) (media : MediaResult)
  | writeComplete (c : ChannelId) (p : PortId) (tag : Byte) (part : Option Part) (media : MediaResult)
  | copyReadComplete (c : ChannelId) (pair : PairNumber) (media : MediaResult)
  | copyWriteComplete (c : ChannelId) (pair : PairNumber)
  | detectionEnd (c : ChannelId) (slot0 slot1 slot2 slot3 : SlotReport)
  | fillEnd (c : ChannelId)
  | channelFault (c : ChannelId)
  -- the Change Engine (Chapter 6)
  | confirmTimerExpiry
  | drainTimerExpiry
  | handoverCommit
  | create
  | retire
  | map
  | setShare
  | setWindow
  | setRights
  | unmap
  | transfer
  | relocate
  | pendingNoticeReoffer
  -- the Copy Engine (Chapter 7)
  | relocationCommit
  | abandonEnd
  | endRecordPost
  -- read requests (sections 2.8, 9.4, 9.5)
  | readStatus (path : MgmtPath)
  | readExtent (path : MgmtPath) (extent : Byte)
  | readLayout (path : MgmtPath)
  | readPort (path : MgmtPath) (port : Byte) (clear : Byte)
  | readChannel (path : MgmtPath) (channel : Byte)
  | readErrors (path : MgmtPath)
  | peekCompletion (path : MgmtPath)
  -- holder requests
  | submit (path : MgmtPath) (operands : SubmitOperands)
  | cancel (path : MgmtPath) (id : BitVec 16)
  | popCompletion (path : MgmtPath)
  | abortRelocation (path : MgmtPath) (extent : Byte)
  | clearErrors (path : MgmtPath) (selector : Byte)
  | clearInterrupted (path : MgmtPath)
  | setLayout (path : MgmtPath) (index : Byte) (limit : BitVec 16) (mode : Byte)
  | clearLayout (path : MgmtPath)
  | poolCommit (path : MgmtPath)
  | poolTeardown (path : MgmtPath)
  | channelOnline (path : MgmtPath) (channel : Byte)
  | channelOffline (path : MgmtPath) (channel : Byte)
  | portEnable (path : MgmtPath) (port : Byte)
  | portDisable (path : MgmtPath) (port : Byte)
  | portReset (path : MgmtPath) (port : Byte)
  | setOffer (path : MgmtPath) (port : Byte) (readOffer : Byte) (writeOffer : Byte)
  | setTimers (path : MgmtPath) (confirm : BitVec 16) (drain : BitVec 16) (bringUp : Byte) (writeData : BitVec 16)
  | setPreserve (path : MgmtPath) (value : Byte)
  -- the manager role (section 9.3)
  | claim (path : MgmtPath)
  | release (path : MgmtPath)
  | breakRole (path : MgmtPath)
  | setEligible (path : MgmtPath) (value : Byte)
  | mgmtBadRequest (frame : MgmtFrame)
  | bridgeResetEnd (straps : Straps)
  deriving DecidableEq, Repr

end Sys2Proof
end

