-- ==== Sys2Proof/Machine/State.lean ====
section
/-! DEFINITION. The state of the bridge: every piece of state the spec gives it, as plain data, and the state after
reset. What the spec also calls state but what is a function of other state is computed once from it (log 30): the
admission lists (R77), the drain count (R85), a channel's capacity (R91), the completion reservation (R116), the
presented copy candidate (R148) and the ALERT_N pin (R190). -/

namespace Sys2Proof.Machine

/-! ## Extent Table (Chapter 1) -/

/-- Rights of a mapping (R1, Table 8). -/
inductive Rights where
  | read
  | readWrite
  deriving DecidableEq, Repr

/-- Share mode of an extent (R8). -/
inductive ShareMode where
  | exclusive
  | shared
  deriving DecidableEq, Repr

/-- One present mapping (R1): where the extent stands in a port's window, and the rights. -/
structure Mapping where
  windowBase : Nat
  rights     : Rights
  deriving DecidableEq, Repr

/-- The fields every record that is not FREE holds (Table 8). -/
structure ExtentBody where
  poolBase   : Nat
  length     : Nat
  share      : ShareMode
  generation : Generation
  mapping    : Vector (Option Mapping) 4
  deriving DecidableEq, Repr

/-- An extent record (R1, R2): the state decides which fields are present. A RELOCATING record's relocation link is
the Copy Engine's relocation record (R10). -/
inductive Extent where
  | free
  | active (body : ExtentBody)
  | changing (body : ExtentBody) (changeId : Nat)
  | relocating (body : ExtentBody)
  deriving DecidableEq, Repr

abbrev ExtentId := Fin 64

/-! ## Layout Decoder (Chapter 2) -/

/-- Mode of a layout range (R25). -/
inductive RangeMode where
  | ch0
  | ch1
  | both
  deriving DecidableEq, Repr

/-- A layout range (Table 12). -/
structure LayoutRange where
  limit    : Nat
  mode     : RangeMode
  ch0Start : Option Nat
  ch1Start : Option Nat
  deriving DecidableEq, Repr

/-- Pool state with what is present while ONLINE: the pool size and the consumption of each channel (R24, R28). -/
inductive Pool where
  | offline
  | online (size : Nat) (consumption0 consumption1 : Nat)
  deriving DecidableEq, Repr

/-- The Layout Decoder's state (Table 14). -/
structure Layout where
  pool     : Pool
  ranges   : List LayoutRange
  preserve : Bool
  deriving DecidableEq, Repr

/-! ## Messages -/

/-- Abort reasons (Table 28). -/
inductive AbortReason where
  | malformed
  | notOpen
  | overrun
  | tagInUse
  | outOfWindow
  | unmapped
  | noRight
  | moving
  | channelDown
  | dataTimeout
  | forced
  deriving DecidableEq, Repr

/-- Status of RD_RETURN (R80). -/
inductive ReadStatus where
  | ok
  | corrected
  | poisoned
  deriving DecidableEq, Repr

/-- Status of WR_ACK (R81). -/
inductive WriteStatus where
  | done
  | linePoisoned
  deriving DecidableEq, Repr

/-- Reasons of CONFIG_REFUSED (R59). -/
inductive ConfigReason where
  | state
  | value
  | sequence
  | retiring
  | readOnly
  | noWord
  deriving DecidableEq, Repr

/-- Reasons of a management status REFUSED (Table 70). -/
inductive RefusedReason where
  | noRanges
  | limitOrder
  | oddLength
  | channelNotOnline
  | capacity
  | extentsInUse
  | moduleFault
  | noModules
  | channelInUse
  | belowGrant
  deriving DecidableEq, Repr

/-- Management response statuses (Table 61). -/
inductive MgmtStatus where
  | ok
  | notHolder
  | notEligible
  | held
  | busy
  | queueFull
  | wrongState
  | notFound
  | tooLate
  | badRequest
  | refused (reason : RefusedReason)
  deriving DecidableEq, Repr

/-- A management response (R177, R197): request kind, status and data bytes. -/
structure MgmtResponse where
  kind   : Byte
  status : MgmtStatus
  data   : List Byte
  deriving DecidableEq, Repr

/-- Kinds of notice with the fields each carries (Table 57). A change id of 0 and an absent extent are `none`. -/
inductive NoticeBody where
  | mapped (extent : ExtentId) (changeId : Nat) (generation : Generation) (windowBase : Nat) (rights : Rights)
  | upgraded (extent : ExtentId) (changeId : Nat) (generation : Generation)
  | pendingRevoke (extent : ExtentId) (changeId : Nat) (generation : Generation)
  | pendingDowngrade (extent : ExtentId) (changeId : Nat) (generation : Generation)
  | revoked (extent : ExtentId) (changeId : Nat) (generation : Generation)
  | downgraded (extent : ExtentId) (changeId : Nat) (generation : Generation)
  | restored (extent : ExtentId) (changeId : Nat) (generation : Generation)
  | channelLost (channel : ChannelId)
  | roleLost
  | completionPosted (changeId : Option Nat) (extent : Option ExtentId)
  deriving DecidableEq, Repr

/-- A notice in a queue (R166). `lostBefore` 0 means the field is absent. -/
structure Notice where
  sequence   : BitVec 8
  body       : NoticeBody
  lostBefore : Nat
  deriving DecidableEq, Repr

/-- Packets the bridge sends (Table 65). A generation of `none` is absent. -/
inductive OutPacket where
  | rdReturn (tag : Byte) (status : ReadStatus) (generation : Generation) (data : LineData)
  | rdAbort (tag : Byte) (reason : AbortReason) (generation : Option Generation)
  | wrAck (tag : Byte) (status : WriteStatus) (generation : Generation)
  | wrAbort (tag : Byte) (reason : AbortReason) (generation : Option Generation)
  | notice (n : Notice)
  | mgmtResponse (r : MgmtResponse)
  | configData (word : Byte) (value : BitVec 64)
  | configDone (word : Byte)
  | configRefused (word : Byte) (reason : ConfigReason)
  deriving DecidableEq, Repr

/-! ## Link Ports (Chapter 3) -/

/-- A timer: stopped, or running from the limit it was started from (log 3). -/
abbrev Timer := Option Nat

/-- States of a Link Port (R40). -/
inductive PortState where
  | disabled
  | down
  | training
  | awaitOpen
  | opened
  | closing
  | failed
  deriving DecidableEq, Repr

/-- Kinds of protocol error (R58). -/
inductive PortErrorKind where
  | malformed
  | overrun
  | tagInUse
  | badAck
  deriving DecidableEq, Repr

/-- A full port error record (R58). -/
structure PortError where
  kind : PortErrorKind
  tag  : Option Byte
  deriving DecidableEq, Repr

/-- Link Port n (Table 18). `acceptance` is `some v` while the accepted flag is set with accepted value `v`; when the
flag is cleared the accepted value is 0 (R46). `outbox` holds the packets handed to the port since it last
discarded them, oldest first (R51, log 8). -/
structure LinkPort where
  state          : PortState
  bringUpTimer   : Timer
  windowSize     : Nat
  readOffer      : Nat
  writeOffer     : Nat
  acceptance     : Option Nat
  grantedReads   : Nat
  grantedWrites  : Nat
  crcDrops       : Nat
  protocolErrors : Nat
  orphanData     : Nat
  error          : Option PortError
  outbox         : List OutPacket
  deriving DecidableEq, Repr

/-! ## Request Trackers (Chapter 4) -/

/-- A place in memory: channel and channel-local line (R32). -/
structure Target where
  channel : ChannelId
  line    : Nat
  deriving DecidableEq, Repr

/-- Resolution of an entry with its targets (R64, R70). -/
inductive Resolution where
  | source (src : Target)
  | dest (dst : Target)
  | dual (src dst : Target)
  deriving DecidableEq, Repr

inductive ReqKind where
  | read
  | write
  deriving DecidableEq, Repr

/-- States of a tracker entry (R65). -/
inductive EntryState where
  | waitData
  | waitChannel
  | atChannel
  | retiring
  deriving DecidableEq, Repr

/-- How one part of a DUAL entry ended (R82). -/
inductive PartOutcome where
  | done
  | linePoisoned
  | aborted
  deriving DecidableEq, Repr

/-- A tracker entry (Table 25). `opTag` is the request's tag; a RETIRING entry holds no tag, and `opTag` is then only
the tag its operations carry (R95 note, log 29). Mask, halves and timer are used by writes, the part fields by DUAL
entries. -/
structure Entry where
  kind       : ReqKind
  opTag      : Byte
  extent     : ExtentId
  generation : Generation
  line       : Nat
  resolution : Resolution
  mask       : ByteMask
  half0      : Option HalfData
  half1      : Option HalfData
  state      : EntryState
  sourcePart : Option PartOutcome
  destPart   : Bool
  timer      : Timer
  deriving DecidableEq, Repr

/-! ## Memory channels (Chapter 5) -/

/-- What a line holds (R101): data with good check bits, the poison marker, or nothing defined (log 13). -/
inductive LineContent where
  | data (bytes : LineData)
  | poison
  | undefined
  deriving DecidableEq, Repr

/-- The contents of a channel by channel-local line: `cells` lists the lines that differ from the background, lines
strictly rising. The form is the model's own way to write the contents down (log 40). -/
structure Memory where
  background : LineContent
  cells      : List (Nat × LineContent)
  deriving DecidableEq, Repr

/-- Origin of an operation (R95). -/
inductive Origin where
  | port (p : PortId) (tag : Byte)
  | copy (pair : PairNumber)
  deriving DecidableEq, Repr

/-- An operation with its mask and data (Table 33). A COPY_WRITE is a placeholder until it is supplied (R105). -/
inductive OpAction where
  | read
  | writeFull (data : LineData)
  | writePartial (mask : ByteMask) (data : LineData)
  | copyRead
  | copyWrite (supply : Option LineContent)
  deriving DecidableEq, Repr

/-- Class of the place an operation took (R96). -/
inductive SlotClass where
  | reserved
  | shared
  deriving DecidableEq, Repr

/-- A work queue operation (Table 33). -/
structure Operation where
  action : OpAction
  line   : Nat
  origin : Origin
  part   : Option Part
  slot   : SlotClass
  deriving DecidableEq, Repr

/-- The five candidate positions of an arbiter in their cyclic order (R98): 0..3 are P0..P3, 4 is the Copy Engine. -/
abbrev Position := Fin 5

/-- First error record of a channel (R110). -/
inductive FirstError where
  | uncorrectable (line : Nat) (segment : Option Nat) (origin : Position)
  | fault
  deriving DecidableEq, Repr

/-- Fill kind (R93). -/
inductive FillKind where
  | zero
  | poison
  deriving DecidableEq, Repr

/-- States of a channel (R90). Detection keeps the state it came from (R92) and the path whose CHANNEL_ONLINE is held
(R176), `none` when its response is to be discarded (R175). -/
inductive ChannelState where
  | offline
  | detecting (fromFaulted : Bool) (requester : Option MgmtPath)
  | filling
  | online
  | faulted
  deriving DecidableEq, Repr

/-- Channel Controller c (Table 32) with the channel's contents. `retentionFault` notes a fault event during retention
(R113). -/
structure Channel where
  state          : ChannelState
  slots          : Vector (Option Nat) 4
  fillKind       : FillKind
  queue          : List Operation
  lastWinner     : Position
  firstError     : Option FirstError
  furtherErrors  : Nat
  correctable    : Nat
  memory         : Memory
  retentionFault : Bool
  deriving DecidableEq, Repr

/-! ## Change Engine (Chapter 6) -/

/-- A change with the operands of its kind (Table 37). -/
inductive ChangeOp where
  | create (extent : ExtentId) (poolBase length : Nat) (share : ShareMode)
  | retire (extent : ExtentId)
  | map (extent : ExtentId) (port : PortId) (windowBase : Nat) (rights : Rights)
  | setShare (extent : ExtentId) (share : ShareMode)
  | setWindow (port : PortId) (size : Nat)
  | setRights (extent : ExtentId) (port : PortId) (rights : Rights) (confirm force : Bool)
  | unmap (extent : ExtentId) (port : PortId) (confirm force : Bool)
  | transfer (extent : ExtentId) (fromPort toPort : PortId) (windowBase : Nat) (rights : Rights) (confirm force : Bool)
  | relocate (extent : ExtentId) (poolBase : Nat)
  deriving DecidableEq, Repr

/-- A change record (R114). -/
structure ChangeRecord where
  id        : Nat
  submitter : MgmtPath
  op        : ChangeOp
  deriving DecidableEq, Repr

/-- What a handover will commit (R126, R135). -/
inductive HandoverKind where
  | unmap
  | downgrade
  | transfer (toPort : PortId) (windowBase : Nat) (rights : Rights)
  deriving DecidableEq, Repr

inductive HandoverPhase where
  | confirm
  | drain
  deriving DecidableEq, Repr

/-- Confirmation of a handover (Table 41). -/
inductive Confirmation where
  | notRequested
  | portNotOpen
  | acknowledged
  | confirmedByLoss
  deriving DecidableEq, Repr

/-- The PENDING notice of a handover (Table 41). -/
inductive PendingNotice where
  | none
  | held
  | sent (sequence : BitVec 8)
  deriving DecidableEq, Repr

/-- The active change: a handover in CONFIRM or DRAIN (Table 41). The drain count is computed from the tracker.
`confirmation` is `none` while CONFIRM has not been decided. `roomReported` is the queue's report of room that a held
PENDING notice has not yet used (R168). -/
structure Handover where
  change         : ChangeRecord
  extent         : ExtentId
  losing         : PortId
  kind           : HandoverKind
  force          : Bool
  phase          : HandoverPhase
  forced         : Bool
  confirmation   : Option Confirmation
  pendingNotice  : PendingNotice
  roomReported   : Bool
  confirmTimer   : Timer
  drainTimer     : Timer
  abortedCount   : Nat
  deriving DecidableEq, Repr

/-- REJECTED reasons (Table 44). -/
inductive RejectReason where
  | extentState
  | range
  | overlapPool
  | overlapWindow
  | windowSize
  | shareRule
  | notMapped
  | alreadyMapped
  | poolOffline
  | engineBusy
  | extentBusy
  | channelDown
  | portOpen
  deriving DecidableEq, Repr

/-- Stage at which a change was cancelled (Table 44). -/
inductive CancelStage where
  | queued
  | confirm
  | drain
  deriving DecidableEq, Repr

/-- Why a relocation was abandoned (Table 48). -/
inductive AbandonReason where
  | requested
  | destFault
  deriving DecidableEq, Repr

/-- Kind of a completion record (Table 43). -/
inductive RecordKind where
  | create
  | retire
  | map
  | setShare
  | setWindow
  | setRights
  | unmap
  | transfer
  | relocate
  | relocationEnd
  deriving DecidableEq, Repr

/-- Outcome of a completion record with its detail (Tables 44 and 51). -/
inductive RecordOutcome where
  | doneImmediate
  | doneHandover (confirmation : Confirmation)
  | forcedDone (confirmation : Confirmation) (aborted : Nat)
  | accepted
  | rejected (reason : RejectReason)
  | confirmTimeout
  | drainTimeout (count : Nat)
  | cancelled (stage : CancelStage)
  | relocationDone (poisonedLines : Nat) (destFault : Bool)
  | relocationAbandoned (reason : AbandonReason)
  deriving DecidableEq, Repr

/-- A completion record (Table 43). Change id 0 is a relocation end. -/
structure CompletionRecord where
  changeId        : Nat
  kind            : RecordKind
  extent          : Option ExtentId
  port            : Option PortId
  submitter       : Option MgmtPath
  outcome         : RecordOutcome
  generationAfter : Option Generation
  deriving DecidableEq, Repr

/-! ## Copy Engine (Chapter 7) -/

inductive ReadPart where
  | outstanding
  | completed
  | aborted
  deriving DecidableEq, Repr

inductive WritePart where
  | placeholder
  | supplied
  | done
  | aborted
  deriving DecidableEq, Repr

/-- Form of a pair (Table 49): the source target and read part are present for form PAIR. -/
inductive PairForm where
  | pair (src : Target) (readPart : ReadPart)
  | poisonWrite
  deriving DecidableEq, Repr

/-- A pair record (Table 49). -/
structure PairRecord where
  number    : PairNumber
  line      : Nat
  form      : PairForm
  dst       : Target
  writePart : WritePart
  deriving DecidableEq, Repr

/-- Phase of a relocation, with the abandon reason in ABANDONING (Table 48). -/
inductive CopyPhase where
  | copying
  | finishing
  | abandoning (reason : AbandonReason)
  deriving DecidableEq, Repr

/-- The relocation record (Table 48). -/
structure Relocation where
  extent        : ExtentId
  sourceBase    : Nat
  targetBase    : Nat
  lengthLines   : Nat
  phase         : CopyPhase
  cursor        : Nat
  pairs         : List PairRecord
  poisonedLines : Nat
  destFault     : Bool
  deriving DecidableEq, Repr

/-- The Copy Engine's condition (R146). -/
inductive CopyEngine where
  | idle
  | running (r : Relocation)
  | ending (record : CompletionRecord)
  deriving DecidableEq, Repr

/-- Phase of a relocation as the interrupted-operation record names it (Table 45). -/
inductive CopyPhaseName where
  | copying
  | finishing
  | abandoning
  deriving DecidableEq, Repr

/-- The handover part of the interrupted-operation record (Table 45). -/
structure CutHandover where
  changeId : Nat
  kind     : RecordKind
  extent   : ExtentId
  losing   : PortId
  phase    : HandoverPhase
  deriving DecidableEq, Repr

/-- The relocation part of the interrupted-operation record (Table 45). -/
structure CutRelocation where
  extent : ExtentId
  phase  : CopyPhaseName
  cursor : Nat
  deriving DecidableEq, Repr

/-- The interrupted-operation record while it is valid (Table 45). -/
structure Interrupted where
  handover         : Option CutHandover
  relocation       : Option CutRelocation
  changesDiscarded : Nat
  recordsDiscarded : Nat
  deriving DecidableEq, Repr

/-! ## Notice Queues (Chapter 8) and Management Unit (Chapter 9) -/

/-- Notice Queue n (Table 55). -/
structure NoticeQueue where
  notices : List Notice
  next    : BitVec 8
  lost    : Nat
  deriving DecidableEq, Repr

/-- The manager role (R178). -/
inductive Holder where
  | none
  | i2c
  | port (p : PortId)
  deriving DecidableEq, Repr

/-- The I2C request and response buffer (R174). -/
inductive I2cBuffer where
  | empty
  | inProgress (kind : Byte)
  | ready (response : MgmtResponse)
  deriving DecidableEq, Repr

/-- The four timer limits (R188): confirm, drain and bring-up in ms, write data in microseconds. -/
structure Limits where
  confirm   : Nat
  drain     : Nat
  bringUp   : Nat
  writeData : Nat
  deriving DecidableEq, Repr

inductive ResetCause where
  | powerOn
  | resetPin
  | resetRequest
  deriving DecidableEq, Repr

/-- The record of the last reset (R189). -/
structure ResetRecord where
  cause     : ResetCause
  preserved : Bool
  deriving DecidableEq, Repr

/-- Power condition (R189): PWRGOOD deasserted, in a bridge reset, or running. -/
inductive Power where
  | off
  | inReset
  | running
  deriving DecidableEq, Repr

/-! ## The whole bridge -/

/-- The state of the bridge. `fresh` numbers the free values taken so far (log 35); `pending` is the queue of
commands that wait, first in first out. -/
structure State where
  power        : Power
  resetNLow    : Bool
  straps       : Straps
  ports        : Vector LinkPort 4
  trackers     : Vector (List Entry) 4
  noticeQueues : Vector NoticeQueue 4
  extents      : Vector Extent 64
  layout       : Layout
  channels     : Vector Channel 2
  changeQueue  : List ChangeRecord
  nextChangeId : Nat
  active       : Option Handover
  completions  : List CompletionRecord
  interrupted  : Option Interrupted
  copyEngine   : CopyEngine
  limits       : Limits
  holder       : Holder
  eligible     : BitVec 4
  i2c          : I2cBuffer
  slots        : Vector (Option Byte) 4
  lastReset    : ResetRecord
  fresh        : Nat
  pending      : List Instr
  deriving DecidableEq, Repr

/-- Why the bridge's step stops. -/
inductive Fault where
  /-- Raised by READ and WRITE when the Layout Decoder is asked for a pool address that no committed range holds. R32
  says a decoding asked for a line of an extent always finds its range, so no run reaches it. Safe (log 19). -/
  | addressOutsidePool
  deriving DecidableEq, Repr

/-- Why the model gives a command no meaning. -/
inductive Refusal where
  /-- Raised by exec for a command without a meaning; no command of this model is left so. Safe. -/
  | notModelled (mnemonic : String)
  deriving DecidableEq, Repr

/-! ## Values after power-on -/

/-- Link Port n at power-on (Table 23). -/
def LinkPort.atPowerOn : LinkPort :=
  { state := .down, bringUpTimer := none, windowSize := 0, readOffer := 24, writeOffer := 16, acceptance := none,
    grantedReads := 0, grantedWrites := 0, crcDrops := 0, protocolErrors := 0, orphanData := 0, error := none,
    outbox := [] }

/-- Channel Controller c at power-on (Table 36). -/
def Channel.atPowerOn : Channel :=
  { state := .offline, slots := Vector.replicate 4 none, fillKind := .zero, queue := [], lastWinner := 4,
    firstError := none, furtherErrors := 0, correctable := 0, memory := { background := .undefined, cells := [] },
    retentionFault := false }

/-- Notice Queue n empty with next sequence 0 (Table 58). -/
def NoticeQueue.empty : NoticeQueue := { notices := [], next := 0, lost := 0 }

/-- The limits' defaults (R188). -/
def Limits.default : Limits :=
  { confirm := Config.defaultConfirmLimit, drain := Config.defaultDrainLimit,
    bringUp := Config.defaultBringUpLimit, writeData := Config.defaultWriteDataLimit }

/-- The state after reset: the bridge after power-on with RESET_N high and every strap low (log 4), each block at
its power-on values (Tables 14, 23, 29, 36, 46, 53, 55, 64 and R21), nothing waiting. -/
def State.reset : State :=
  { power := .running
    resetNLow := false
    straps := { addr := 0, mgrEn := 0 }
    ports := Vector.replicate 4 LinkPort.atPowerOn
    trackers := Vector.replicate 4 []
    noticeQueues := Vector.replicate 4 NoticeQueue.empty
    extents := Vector.replicate 64 .free
    layout := { pool := .offline, ranges := [], preserve := false }
    channels := Vector.replicate 2 Channel.atPowerOn
    changeQueue := []
    nextChangeId := 1
    active := none
    completions := []
    interrupted := none
    copyEngine := .idle
    limits := Limits.default
    holder := .none
    eligible := 0
    i2c := .empty
    slots := Vector.replicate 4 none
    lastReset := { cause := .powerOn, preserved := false }
    fresh := 0
    pending := [] }

end Sys2Proof.Machine
end

