-- ==== Sys2Proof/Machine/LayoutDecoder.lean ====
section
/-! DEFINITION. The Layout Decoder's queries and edits (Chapter 2): decoding a pool address, the reverse decoding, the
channels of a range of segments, use and consumption of a channel, and the checks and starts of POOL_COMMIT. -/

namespace Sys2Proof.Machine

/-- The ranges with their lower bounds: the limit of the range before, 0 for the first (R25). -/
def withLower (lower : Nat) : List LayoutRange → List (Nat × LayoutRange)
  | [] => []
  | r :: rest => (lower, r) :: withLower r.limit rest

/-- Whether a range places lines on a channel (R25). -/
def RangeMode.names (m : RangeMode) (c : ChannelId) : Bool :=
  match m with
  | .ch0 => decide (c = 0)
  | .ch1 => decide (c = 1)
  | .both => true

/-- A range's start on a channel, when it has one (Table 12). -/
def LayoutRange.start (r : LayoutRange) (c : ChannelId) : Option Nat := if c = 0 then r.ch0Start else r.ch1Start

/-- The segments a range takes from a channel it names: its length for a single-channel mode, half of it for BOTH
(R28, R35). -/
def rangeShare (lower : Nat) (r : LayoutRange) : Nat :=
  match r.mode with
  | .both => (r.limit - lower) / 2
  | _ => r.limit - lower

/-- Place of byte offset `r` of a range (R32 for CH0 and CH1, R33 for BOTH). -/
def decodeInRange (range : LayoutRange) (r : Nat) : Option Target :=
  match range.mode with
  | .ch0 => range.ch0Start.map (fun st => ⟨0, st * Config.segmentLines + r / Config.lineBytes⟩)
  | .ch1 => range.ch1Start.map (fun st => ⟨1, st * Config.segmentLines + r / Config.lineBytes⟩)
  | .both =>
    let b := r / Config.blockBytes
    let w := (r % Config.blockBytes) / Config.lineBytes
    let c : ChannelId := if b % 2 = 0 then 0 else 1
    (range.start c).map (fun st => ⟨c, st * Config.segmentLines + (b / 2) * 8 + w⟩)

/-- The range that contains a pool segment, with its lower bound. -/
def rangeOfSegment (ranges : List LayoutRange) (s : Nat) : Option (Nat × LayoutRange) :=
  (withLower 0 ranges).find? (fun x => decide (x.1 ≤ s) && decide (s < x.2.limit))

/-- Decoding of a pool address to a channel and channel-local line (R32, R33). -/
def Layout.decode (l : Layout) (address : Nat) : Option Target :=
  match rangeOfSegment l.ranges (address / Config.segmentBytes) with
  | none => none
  | some (lower, range) => decodeInRange range (address - lower * Config.segmentBytes)

/-- Pool size: 0 while OFFLINE (R24). -/
def Layout.size (l : Layout) : Nat :=
  match l.pool with
  | .offline => 0
  | .online size _ _ => size

/-- Whether the pool is ONLINE. -/
def Layout.isOnline (l : Layout) : Bool :=
  match l.pool with
  | .offline => false
  | .online _ _ _ => true

/-- Consumption of a channel, 0 while OFFLINE (R34). -/
def Layout.consumption (l : Layout) (c : ChannelId) : Nat :=
  match l.pool with
  | .offline => 0
  | .online _ c0 c1 => if c = 0 then c0 else c1

/-- Use of a channel: the pool ONLINE and its consumption above 0 (R34). -/
def Layout.uses (l : Layout) (c : ChannelId) : Bool := decide (0 < l.consumption c)

/-- Channels of a pool segment (R34): whether channel `c` holds a line of segment `s`. -/
def Layout.segmentOn (l : Layout) (s : Nat) (c : ChannelId) : Bool :=
  match rangeOfSegment l.ranges s with
  | none => false
  | some (_, range) => range.mode.names c

/-- Whether some segment from `base` up to `base + length` has channel `c` in its set of channels (R34). -/
def Layout.rangeOn (l : Layout) (base length : Nat) (c : ChannelId) : Bool :=
  (List.range length).any (fun i => l.segmentOn (base + i) c)

/-- Whether a range with its lower bound has a start on a channel and covers a channel-local segment there (R35). -/
def coversOn (c : ChannelId) (g : Nat) (x : Nat × LayoutRange) : Bool :=
  match x.2.start c with
  | none => false
  | some st => decide (st ≤ g) && decide (g < st + rangeShare x.1 x.2)

/-- Reverse decoding of a channel-local line over a list of ranges: its pool segment, absent when no range covers the
line (R35). -/
def segmentIn (ranges : List LayoutRange) (c : ChannelId) (line : Nat) : Option Nat :=
  let g := line / Config.segmentLines
  match (withLower 0 ranges).find? (coversOn c g) with
  | none => none
  | some (lower, range) =>
    match range.start c with
    | none => none
    | some st =>
      match range.mode with
      | .both =>
        let k := line - st * Config.segmentLines
        let block := 2 * (k / 8) + (if c = 0 then 0 else 1)
        some (lower + (block * Config.blockBytes + (k % 8) * Config.lineBytes) / Config.segmentBytes)
      | _ => some (lower + (g - st))

/-- Reverse decoding of a channel-local line to its pool segment (R35); absent beyond the consumption and while
OFFLINE. -/
def Layout.segmentOfLine (l : Layout) (c : ChannelId) (line : Nat) : Option Nat :=
  match l.pool with
  | .offline => none
  | .online _ _ _ => segmentIn l.ranges c line

/-! ## Edits -/

/-- A range without channel starts. -/
def LayoutRange.clearStarts (r : LayoutRange) : LayoutRange := { r with ch0Start := none, ch1Start := none }

/-- The list after SET_LAYOUT at an index (R26): appended or replaced, every start absent. -/
def editRanges (ranges : List LayoutRange) (index limit : Nat) (mode : RangeMode) : List LayoutRange :=
  let r : LayoutRange := { limit := limit, mode := mode, ch0Start := none, ch1Start := none }
  (if index = ranges.length then ranges ++ [r] else ranges.set index r).map LayoutRange.clearStarts

/-! ## POOL_COMMIT (R28, R29) -/

/-- Ranges with their starts, and the consumption of each channel, from running totals (R28). -/
def computeStarts (lower total0 total1 : Nat) : List LayoutRange → List LayoutRange × Nat × Nat
  | [] => ([], total0, total1)
  | r :: rest =>
    let share := rangeShare lower r
    let on0 := r.mode.names 0
    let on1 := r.mode.names 1
    let r' : LayoutRange := { r with ch0Start := if on0 then some total0 else none,
                                     ch1Start := if on1 then some total1 else none }
    let (rest', t0, t1) :=
      computeStarts r.limit (if on0 then total0 + share else total0) (if on1 then total1 + share else total1) rest
    (r' :: rest', t0, t1)

/-- Index of the first range whose limit is not greater than the limit before it (Table 13, check 3). -/
def firstLimitFault (index previous : Nat) : List LayoutRange → Option Nat
  | [] => none
  | r :: rest => if previous < r.limit then firstLimitFault (index + 1) r.limit rest else some index

/-- Index of the first BOTH range of odd length (Table 13, check 4). -/
def firstOddRange (index : Nat) : List (Nat × LayoutRange) → Option Nat
  | [] => none
  | (lower, r) :: rest =>
    if r.mode = .both ∧ (r.limit - lower) % 2 = 1 then some index else firstOddRange (index + 1) rest

/-- Whether some range names a channel. -/
def channelNamed (ranges : List LayoutRange) (c : ChannelId) : Bool := ranges.any (fun r => r.mode.names c)

/-- The limit of the last range. -/
def lastLimit (ranges : List LayoutRange) : Nat :=
  match ranges.getLast? with
  | none => 0
  | some r => r.limit

end Sys2Proof.Machine
end

