-- ==== Sys2Proof/Machine/Memory.lean ====
section
/-! DEFINITION. The contents of a channel (R101 to R105): reading and writing one line in the canonical form, the fill,
merging a partial write, and what a cut operation leaves. -/

namespace Sys2Proof.Machine

/-- What a listed line holds, `none` when the line is not listed. -/
def lookupCell (line : Nat) : List (Nat × LineContent) → Option LineContent
  | [] => none
  | (l, x) :: rest => if l = line then some x else lookupCell line rest

/-- The content of a line: its cell, or the background when it is not listed. -/
def Memory.read (m : Memory) (line : Nat) : LineContent := (lookupCell line m.cells).getD m.background

/-- A cell list without a line. -/
def eraseCell (line : Nat) : List (Nat × LineContent) → List (Nat × LineContent)
  | [] => []
  | (l, x) :: rest => if l = line then rest else (l, x) :: eraseCell line rest

/-- A cell list with a line's content put in its place in the rising order. -/
def insertCell (line : Nat) (y : LineContent) : List (Nat × LineContent) → List (Nat × LineContent)
  | [] => [(line, y)]
  | (l, x) :: rest =>
    if line < l then (line, y) :: (l, x) :: rest
    else if line = l then (line, y) :: rest
    else (l, x) :: insertCell line y rest

/-- Writing a line; writing what an unlisted line reads as removes the entry. -/
def Memory.write (m : Memory) (line : Nat) (y : LineContent) : Memory :=
  if y = m.background then { m with cells := eraseCell line m.cells }
  else { m with cells := insertCell line y m.cells }

/-- Whether the lines of a cell list rise strictly, all above a bound. -/
def cellsRising : Nat → List (Nat × LineContent) → Bool
  | _, [] => true
  | lo, (l, _) :: rest => decide (lo ≤ l) && cellsRising (l + 1) rest

/-- The canonical form: lines strictly rising and no cell equal to the background. -/
def Memory.wf (m : Memory) : Bool :=
  cellsRising 0 m.cells && m.cells.all (fun cell => decide (cell.2 ≠ m.background))

/-- Contents that nothing has given (Table 36 "none"). -/
def Memory.undefinedContents : Memory := { background := .undefined, cells := [] }

/-- Contents after a fill (R93): zeros with valid check bits, or the poison marker, on every line. -/
def Memory.filled : FillKind → Memory
  | .zero => { background := .data 0, cells := [] }
  | .poison => { background := .poison, cells := [] }

/-- The bit mask that keeps the bytes whose mask bit is set, over bytes below `n`. -/
def expandMask (mask : ByteMask) : Nat → LineData
  | 0 => 0
  | n + 1 => expandMask mask n ||| (if mask.getLsbD n then 0xFF#512 <<< (8 * n) else 0)

/-- A partial write's merge: each byte whose mask bit is set is taken from the write, each other byte keeps the value
read (R104). -/
def mergeLine (mask : ByteMask) (new old : LineData) : LineData :=
  (new &&& expandMask mask 64) ||| (old &&& ~~~ expandMask mask 64)

/-- The data a line that is not poisoned gives; nothing defined gives a free value (log 13). -/
def contentData (line : Nat) : LineContent → LineData
  | .data d => d
  | .poison => 0
  | .undefined => Config.undefinedLine line

/-- The four ECC outcomes (R101). -/
inductive EccOutcome where
  | clean
  | corrected
  | uncorrectable
  | poisoned
  deriving DecidableEq, Repr

/-- The ECC outcome of reading a line: POISONED for the poison marker, every time; else what the check bits show
(R101). -/
def eccOutcome (content : LineContent) (media : MediaResult) : EccOutcome :=
  match content, media with
  | .poison, _ => .poisoned
  | _, .clean => .clean
  | _, .correctable => .corrected
  | _, .uncorrectable => .uncorrectable

/-- What a READ or COPY_READ leaves on its line: the poison marker after an UNCORRECTABLE outcome, else the line as
it was, corrected data being the data as written (R102). -/
def Memory.afterRead (m : Memory) (line : Nat) (e : EccOutcome) : Memory :=
  match e with
  | .uncorrectable => m.write line .poison
  | _ => m

/-- What a WRITE_PARTIAL leaves on its line (R104). -/
def Memory.afterPartial (m : Memory) (line : Nat) (mask : ByteMask) (data : LineData) (e : EccOutcome) : Memory :=
  match e with
  | .clean | .corrected => m.write line (.data (mergeLine mask data (contentData line (m.read line))))
  | .uncorrectable | .poisoned => m.write line .poison

/-- The contents that R112 and R113 allow a line to hold after an operation on it was cut: the old contents, or what
the operation writes, or the poison marker where its read finds the line UNCORRECTABLE. -/
def cutContents (line : Nat) (old : LineContent) : OpAction → List LineContent
  | .read | .copyRead => [old, .poison]
  | .writeFull d => [old, .data d]
  | .writePartial mask d =>
    match old with
    | .poison => [.poison]
    | _ => [old, .data (mergeLine mask d (contentData line old)), .poison]
  | .copyWrite (some x) => [old, x]
  | .copyWrite none => [old]

/-- Whether an operation can be in progress: no earlier operation of the queue is on its line, and a COPY_WRITE has
been supplied (R97). -/
def inProgress (earlier : List Operation) (op : Operation) : Bool :=
  earlier.all (fun o => decide (o.line ≠ op.line)) &&
    match op.action with
    | .copyWrite none => false
    | _ => true

/-- The contents after the operations of a queue were cut (R112, R113): each line with an operation in progress holds
one of the contents allowed, which one being a free value (log 12). `earlier` are the operations already passed, `n`
numbers the free value. -/
def Memory.cut (m : Memory) (n : Nat) (earlier : List Operation) : List Operation → Memory
  | [] => m
  | op :: rest =>
    let m' :=
      if inProgress earlier op then
        let allowed := cutContents op.line (m.read op.line) op.action
        m.write op.line (allowed.getD (Config.cutChoice n % allowed.length) (m.read op.line))
      else m
    m'.cut (n + 1) (earlier ++ [op]) rest

end Sys2Proof.Machine
end

