-- ==== Sys2Proof/Machine/Wire.lean ====
section
/-! DEFINITION. Bytes on the wire (Chapter 10): little-endian fields, the two cyclic codes, the field conditions of
inbound packets (R194) and of management requests (R198). -/

namespace Sys2Proof.Machine

/-- A number as `n` bytes, least significant byte first (R192). -/
def le : Nat → Nat → List Byte
  | 0, _ => []
  | n + 1, v => BitVec.ofNat 8 v :: le n (v / 256)

/-- The number that bytes hold, least significant byte first (R192). -/
def ofLe : List Byte → Nat
  | [] => 0
  | b :: bs => b.toNat + 256 * ofLe bs

/-- A flag as one byte. -/
def flagByte (b : Bool) : Byte := if b then 1 else 0

/-- An optional field of `n` bytes: a presence byte, then the field or zeros of its size (R199). -/
def optField (n : Nat) : Option (List Byte) → List Byte
  | none => 0 :: List.replicate n 0
  | some bs => 1 :: bs

/-- `f` applied `n` times. -/
def iter {α : Type} (f : α → α) : Nat → α → α
  | 0, a => a
  | n + 1, a => iter f n (f a)

/-- One bit of the packet CRC: generator 04C1_1DB7h with bits taken least significant first, so the register and
the generator stand reflected (R193, log 20). -/
def crc32Bit (c : BitVec 32) : BitVec 32 := if c.getLsbD 0 then (c >>> 1) ^^^ 0xEDB88320#32 else c >>> 1

/-- The packet CRC: from FFFF_FFFFh, complemented at the end (R193). -/
def crc32 (bs : List Byte) : BitVec 32 :=
  ~~~ (bs.foldl (fun c b => iter crc32Bit 8 (c ^^^ b.zeroExtend 32)) 0xFFFFFFFF#32)

/-- One bit of the management frames' check code, generator 07h (R197, log 20). -/
def crc8Bit (c : BitVec 8) : BitVec 8 := if c.msb then (c <<< 1) ^^^ 0x07#8 else c <<< 1

/-- The check byte of management frames, from 00h (R197). -/
def crc8 (bs : List Byte) : BitVec 8 := bs.foldl (fun c b => iter crc8Bit 8 (c ^^^ b)) 0

/-- Whether a received packet fails the CRC check: too short to hold a kind, a length and a CRC, or a wrong CRC in
its last four bytes (R193). -/
def crcBad (bytes : List Byte) : Bool :=
  decide (bytes.length < 6) ||
    decide (bytes.drop (bytes.length - 4) ≠ le 4 (crc32 (bytes.take (bytes.length - 4))).toNat)

/-! ## Inbound packets (R194) -/

/-- The length conditions for a kind of body length `n`: L is `n` and the received size is L + 6. -/
def lengthOk (pkt : RawPacket) (n : Nat) : Bool := decide (pkt.len.toNat = n) && decide (pkt.body.length = n)

/-- The tag field, when the packet was long enough to carry it (R194: at least 7 bytes received). -/
def readableTag (pkt : RawPacket) : Option Byte := pkt.body.head?

/-- The tag of a packet known to be long enough. -/
def packetTag (pkt : RawPacket) : Byte := (readableTag pkt).getD 0

/-- Node address of a READ or WRITE, bytes 1..5 of the body (Table 66). -/
def packetAddress (pkt : RawPacket) : Nat := ofLe ((pkt.body.drop 1).take 5)

/-- Byte mask of a WRITE, bytes 6..13 of the body (Table 66). -/
def packetMask (pkt : RawPacket) : ByteMask := BitVec.ofNat 64 (ofLe ((pkt.body.drop 6).take 8))

/-- Half number of a WDATA, byte 1 of the body (Table 66). -/
def packetHalf (pkt : RawPacket) : Byte := (pkt.body.drop 1).head?.getD 0

/-- The 32 bytes of a WDATA, bytes 2..33 of the body (Table 66). -/
def packetHalfData (pkt : RawPacket) : HalfData := BitVec.ofNat 256 (ofLe ((pkt.body.drop 2).take 32))

/-- Field conditions of a READ (R194): length, and a line-aligned address. -/
def readFieldsOk (pkt : RawPacket) : Bool := lengthOk pkt 6 && decide (packetAddress pkt % Config.lineBytes = 0)

/-- Field conditions of a WRITE (R194): those of a READ, and a byte mask not all clear. -/
def writeFieldsOk (pkt : RawPacket) : Bool :=
  lengthOk pkt 14 && decide (packetAddress pkt % Config.lineBytes = 0) && decide (packetMask pkt ≠ 0)

/-- Field conditions of a WDATA (R194): length, and a half of 00h or 01h. -/
def wdataFieldsOk (pkt : RawPacket) : Bool :=
  lengthOk pkt 34 && (decide (packetHalf pkt = 0) || decide (packetHalf pkt = 1))

/-- Whether a packet with a good CRC is of undefined kind, or a configuration packet that fails the length
conditions (R50, R194). Codes 80h and above are outbound kinds, undefined inbound (R193). -/
def undefinedInbound (kind : Byte) (pkt : RawPacket) : Bool :=
  if kind = 0x06 then !lengthOk pkt 1
  else if kind = 0x07 then !lengthOk pkt 9
  else !(decide (1 ≤ kind.toNat) && decide (kind.toNat ≤ 5))

/-! ## Management requests (R198) -/

namespace Req
abbrev readStatus : Byte := 0x10
abbrev readExtent : Byte := 0x11
abbrev readLayout : Byte := 0x12
abbrev readPort : Byte := 0x13
abbrev readChannel : Byte := 0x14
abbrev readErrors : Byte := 0x15
abbrev peekCompletion : Byte := 0x16
abbrev submit : Byte := 0x20
abbrev cancel : Byte := 0x21
abbrev popCompletion : Byte := 0x22
abbrev abortRelocation : Byte := 0x23
abbrev clearErrors : Byte := 0x24
abbrev clearInterrupted : Byte := 0x25
abbrev setLayout : Byte := 0x26
abbrev clearLayout : Byte := 0x27
abbrev poolCommit : Byte := 0x28
abbrev poolTeardown : Byte := 0x29
abbrev channelOnline : Byte := 0x2A
abbrev channelOffline : Byte := 0x2B
abbrev portEnable : Byte := 0x2C
abbrev portDisable : Byte := 0x2D
abbrev portReset : Byte := 0x2E
abbrev setOffer : Byte := 0x2F
abbrev setTimers : Byte := 0x30
abbrev setPreserve : Byte := 0x31
abbrev claim : Byte := 0x38
abbrev release : Byte := 0x39
abbrev breakRole : Byte := 0x40
abbrev setEligible : Byte := 0x41
abbrev bridgeReset : Byte := 0x42
/-- The request kind of an answer to a frame too short to hold one (R198). -/
abbrev tooShort : Byte := 0xFF
end Req

/-- Operand length of a request kind in bytes (Table 68); `none` for a code not in the table. -/
def operandLength (kind : Byte) : Option Nat :=
  match kind.toNat with
  | 0x10 | 0x12 | 0x15 | 0x16 | 0x22 | 0x25 | 0x27 | 0x28 | 0x29 | 0x38 | 0x39 | 0x40 | 0x42 => some 0
  | 0x11 | 0x14 | 0x23 | 0x24 | 0x2A | 0x2B | 0x2C | 0x2D | 0x2E | 0x31 | 0x41 => some 1
  | 0x13 | 0x21 => some 2
  | 0x2F => some 3
  | 0x26 => some 4
  | 0x30 => some 7
  | 0x20 => some 18
  | _ => none

/-- Whether the operand at a position is at most a bound. -/
def operandAtMost (ops : List Byte) (i bound : Nat) : Bool := decide ((ops.getD i 0).toNat ≤ bound)

/-- The operand ranges that check 1 tests (R198). -/
def operandRangesOk (kind : Byte) (ops : List Byte) : Bool :=
  match kind.toNat with
  | 0x11 | 0x23 => operandAtMost ops 0 63
  | 0x13 => operandAtMost ops 0 3 && operandAtMost ops 1 1
  | 0x14 | 0x2A | 0x2B | 0x31 => operandAtMost ops 0 1
  | 0x2C | 0x2D | 0x2E | 0x2F => operandAtMost ops 0 3
  | 0x24 => operandAtMost ops 0 2
  | 0x41 => operandAtMost ops 0 15
  | _ => true

/-- Whether a request kind with these operand bytes passes check 1 (R198). -/
def requestFieldsOk (kind : Byte) (ops : List Byte) : Bool :=
  decide (operandLength kind = some ops.length) && operandRangesOk kind ops

/-- Whether a request as received passes check 1 of R177 (R198). -/
def frameFieldsOk : MgmtFrame → Bool
  | .i2c (kind :: n :: rest) =>
    decide (rest.length = n.toNat + 1) && decide (rest.getLast? = some (crc8 (kind :: n :: rest.take n.toNat))) &&
      requestFieldsOk kind (rest.take n.toNat)
  | .i2c _ => false
  | .inBand _ pkt =>
    match pkt.body with
    | kind :: ops => decide (pkt.len.toNat = pkt.body.length) && requestFieldsOk kind ops
    | [] => false

/-- The request kind an answer to a received request carries: FFh when it is too short to hold one (R198), in a BUSY
answer too, of which no rule gives the kind (log 39). -/
def frameKind : MgmtFrame → Byte
  | .i2c bytes => bytes.head?.getD Req.tooShort
  | .inBand _ pkt => if pkt.len = 0 then Req.tooShort else pkt.body.head?.getD Req.tooShort

/-- The path a request came by. -/
def framePath : MgmtFrame → MgmtPath
  | .i2c _ => .i2c
  | .inBand p _ => .inBand p

end Sys2Proof.Machine
end

