-- ==== Sys2Proof/Machine/Ops.lean ====
section
/-! DEFINITION. Operations shared by the commands: access to each block's state, what a Link Port sends and counts,
notices, completion records, and the Management Unit's handling of a request. -/

namespace Sys2Proof.Machine

/-! ## Access -/

def State.port (s : State) (p : PortId) : LinkPort := s.ports[p]
def State.setPort (s : State) (p : PortId) (x : LinkPort) : State := { s with ports := s.ports.set p x }

def State.tracker (s : State) (p : PortId) : List Entry := s.trackers[p]
def State.setTracker (s : State) (p : PortId) (x : List Entry) : State := { s with trackers := s.trackers.set p x }

def State.noticeQueue (s : State) (p : PortId) : NoticeQueue := s.noticeQueues[p]
def State.setNoticeQueue (s : State) (p : PortId) (x : NoticeQueue) : State :=
  { s with noticeQueues := s.noticeQueues.set p x }

def State.extent (s : State) (e : ExtentId) : Extent := s.extents[e]
def State.setExtent (s : State) (e : ExtentId) (x : Extent) : State := { s with extents := s.extents.set e x }

def State.channel (s : State) (c : ChannelId) : Channel := s.channels[c]
def State.setChannel (s : State) (c : ChannelId) (x : Channel) : State := { s with channels := s.channels.set c x }

def State.slot (s : State) (p : PortId) : Option Byte := s.slots[p]
def State.setSlot (s : State) (p : PortId) (x : Option Byte) : State := { s with slots := s.slots.set p x }

/-- The four ports in order. -/
def allPorts : List PortId := [0, 1, 2, 3]

/-- A command's effect while the bridge runs; while PWRGOOD is deasserted or a bridge reset is in progress no request
or event is taken (R189). -/
def State.whenRunning (s : State) (f : State → State) : State := if s.power = .running then f s else s

/-! ## Extent records -/

/-- The fields of a record that is not FREE. -/
def Extent.body? : Extent → Option ExtentBody
  | .free => none
  | .active b => some b
  | .changing b _ => some b
  | .relocating b => some b

/-- An extent's generation, absent when it is FREE. -/
def State.generationOf (s : State) (e : ExtentId) : Option Generation := ((s.extent e).body?).map (·.generation)

/-- The record numbers in order. -/
def allExtents : List ExtentId := List.finRange 64

/-! ## Link Port: sending and counting -/

/-- States in which the Link Port sends and receives (R49, R51). -/
def PortState.linked : PortState → Bool
  | .awaitOpen | .opened | .closing => true
  | _ => false

/-- Handing packets to Link Port p: discarded unsent in DISABLED, DOWN, TRAINING and FAILED (R51). -/
def State.sendAll (s : State) (p : PortId) (pkts : List OutPacket) : State :=
  if (s.port p).state.linked then s.setPort p { s.port p with outbox := (s.port p).outbox ++ pkts } else s

/-- Handing one packet to Link Port p (R51). -/
def State.send (s : State) (p : PortId) (pkt : OutPacket) : State := s.sendAll p [pkt]

/-- A saturating counter's next value. -/
def satIncr (maximum n : Nat) : Nat := if n < maximum then n + 1 else n

/-- A protocol error reported to a Link Port: counted, and latched into an empty error record (R57, R58). -/
def LinkPort.protocolError (x : LinkPort) (kind : PortErrorKind) (tag : Option Byte) : LinkPort :=
  { x with protocolErrors := satIncr 255 x.protocolErrors,
           error := match x.error with
             | none => some { kind := kind, tag := tag }
             | some e => some e }

def State.protocolError (s : State) (p : PortId) (kind : PortErrorKind) (tag : Option Byte) : State :=
  s.setPort p ((s.port p).protocolError kind tag)

/-- A WDATA dropped as orphan data (R75, R57). -/
def State.orphan (s : State) (p : PortId) : State :=
  s.setPort p { s.port p with orphanData := satIncr 255 (s.port p).orphanData }

/-- The counters and the error record cleared (R58). -/
def LinkPort.clearCounters (x : LinkPort) : LinkPort :=
  { x with crcDrops := 0, protocolErrors := 0, orphanData := 0, error := none }

/-- A Link Port that drops its link: DOWN, DISABLED or FAILED, timer stopped, acceptance cleared, credits 0, packets
not yet sent discarded (R44, R46, R51, R55). -/
def LinkPort.drop (x : LinkPort) (target : PortState) : LinkPort :=
  { x with state := target, bringUpTimer := none, acceptance := none, grantedReads := 0, grantedWrites := 0, outbox := [] }

/-! ## Notices (Chapter 8) -/

/-- PENDING_REVOKE and PENDING_DOWNGRADE are held by the Change Engine, never lost (R167, R168). -/
def NoticeBody.isPending : NoticeBody → Bool
  | .pendingRevoke _ _ _ => true
  | .pendingDowngrade _ _ _ => true
  | _ => false

/-- Whether an offered notice would enter: the port OPEN and fewer than 8 notices held (R167). -/
def State.noticeRoom (s : State) (p : PortId) : Bool :=
  decide ((s.port p).state = .opened) && decide ((s.noticeQueue p).notices.length < Config.noticeQueueSize)

/-- The notice as it enters a queue: the next sequence and the lost count (R166, R167). -/
def NoticeQueue.stamp (q : NoticeQueue) (body : NoticeBody) : Notice :=
  { sequence := q.next, body := body, lostBefore := q.lost }

/-- A queue after a notice entered it (R167). -/
def NoticeQueue.enter (q : NoticeQueue) (body : NoticeBody) : NoticeQueue :=
  { notices := q.notices ++ [q.stamp body], next := q.next + 1, lost := 0 }

/-- A notice offered to the queue of port p (R167): it enters and is handed to the Link Port, or is lost when the
queue is full (a PENDING notice is refused instead, R168), or is discarded when the port is not OPEN. -/
def State.offerNotice (s : State) (p : PortId) (body : NoticeBody) : State :=
  if (s.port p).state = .opened then
    if (s.noticeQueue p).notices.length < Config.noticeQueueSize then
      (s.setNoticeQueue p ((s.noticeQueue p).enter body)).send p (.notice ((s.noticeQueue p).stamp body))
    else if body.isPending then s
    else s.setNoticeQueue p { s.noticeQueue p with lost := satIncr 255 (s.noticeQueue p).lost }
  else s

/-- Notices offered one after another. -/
def State.offerNotices (s : State) : List (PortId × NoticeBody) → State
  | [] => s
  | (p, body) :: rest => (s.offerNotice p body).offerNotices rest

/-! ## Completion records (section 6.6) -/

/-- Places of the completion queue taken: the records held, and the reservation while a change is active (R140). -/
def State.placesTaken (s : State) : Nat := s.completions.length + (if s.active.isSome then 1 else 0)

/-- Whether an unreserved place of the completion queue is free (R140). -/
def State.placeFree (s : State) : Bool := decide (s.placesTaken < Config.completionQueueSize)

/-- The COMPLETION_POSTED notice of a record: its change id when not 0, its extent when it has one (R187). -/
def CompletionRecord.postedNotice (r : CompletionRecord) : NoticeBody :=
  .completionPosted (if r.changeId = 0 then none else some r.changeId) r.extent

/-- Posting a record: appended to the queue, and COMPLETION_POSTED offered to a node holder (R140, R187). -/
def State.postRecord (s : State) (r : CompletionRecord) : State :=
  let s' := { s with completions := s.completions ++ [r] }
  match s'.holder with
  | .port p => s'.offerNotice p r.postedNotice
  | _ => s'

/-- Whether COMPLETION_POSTED enters before the notices of another producer in the same step. It matters only when
one goes to the holder's own queue; R167 allows either order, so it is a free value (log 14). -/
def State.postsFirst (s : State) (notices : List (PortId × NoticeBody)) : Bool :=
  match s.holder with
  | .port p => notices.any (fun x => decide (x.1 = p)) && Config.postedFirst s.fresh
  | _ => false

/-- A record posted and notices of another producer offered in one step (R125, R135, R167). -/
def State.announce (s : State) (r : CompletionRecord) (notices : List (PortId × NoticeBody)) : State :=
  let s' := { s with fresh := s.fresh + 1 }
  if s.postsFirst notices then (s'.postRecord r).offerNotices notices
  else (s'.offerNotices notices).postRecord r

/-! ## Management requests (sections 9.1 and 9.2) -/

/-- What the owning block answers: a response with its data, one that is held until detection ends (R176), or none
(BRIDGE_RESET, R189). -/
inductive Reply where
  | now (status : MgmtStatus) (data : List Byte)
  | later
  | nothing
  deriving DecidableEq, Repr

/-- An answer without data. -/
abbrev Reply.status (st : MgmtStatus) : Reply := .now st []

/-- The holder a path would be (R178). -/
def pathHolder : MgmtPath → Holder
  | .i2c => .i2c
  | .inBand p => .port p

/-- Whether a path holds the manager role (R177, check 3). -/
def State.isHolder (s : State) (path : MgmtPath) : Bool := decide (s.holder = pathHolder path)

/-- Returning a response on the path by which the request came: the I2C buffer becomes READY; an in-band response is
handed to the Link Port and the slot becomes free (R174, R175). -/
def State.respond (s : State) (path : MgmtPath) (r : MgmtResponse) : State :=
  match path with
  | .i2c => { s with i2c := .ready r }
  | .inBand p => (s.send p (.mgmtResponse r)).setSlot p none

/-- Marking a request as taken: the I2C buffer IN_PROGRESS, or the in-band slot busy (R174, R175). -/
def State.takeRequest (s : State) (path : MgmtPath) (kind : Byte) : State :=
  match path with
  | .i2c => { s with i2c := .inProgress kind }
  | .inBand p => s.setSlot p (some kind)

/-- How a request is received: taken, answered BUSY, or not received at all (a write transaction that the I2C target
does not acknowledge, a packet on a link that receives none, a bridge that is off or in reset). -/
inductive Reception where
  | taken
  | busy
  | notReceived
  deriving DecidableEq, Repr

def State.reception (s : State) (path : MgmtPath) : Reception :=
  if s.power ≠ .running then .notReceived
  else match path with
    | .i2c =>
      match s.i2c with
      | .inProgress _ => .notReceived
      | _ => .taken
    | .inBand p =>
      if (s.port p).state.linked then
        match s.slot p with
        | some _ => .busy
        | none => .taken
      else .notReceived

/-- A management request of a kind on a path, decided by the owning block in the step in which it is taken
(R174 to R176). The notices and aborts that the owning block hands to the path's port in that step go before the
response, an order that R51 and R169 leave open (log 15). -/
def State.request (s : State) (path : MgmtPath) (kind : Byte) (act : State → State × Reply) : State :=
  match s.reception path with
  | .notReceived => s
  | .busy =>
    match path with
    | .i2c => s
    | .inBand p => s.send p (.mgmtResponse { kind := kind, status := .busy, data := [] })
  | .taken =>
    let (t, reply) := act (s.takeRequest path kind)
    match reply with
    | .now st data => t.respond path { kind := kind, status := st, data := data }
    | .later => t
    | .nothing => t

/-- A holder request: answered NOT_HOLDER for a path that does not hold the role (R177, check 3). -/
def State.holderOnly (s : State) (path : MgmtPath) (act : State → State × Reply) : State × Reply :=
  if s.isHolder path then act s else (s, .status .notHolder)

/-- The BAD_REQUEST answer, nothing changed. -/
def State.badRequest (s : State) : State × Reply := (s, .status .badRequest)

/-- Loss of the role by the node of port p (R179). -/
def State.freeRole (s : State) (p : PortId) : State := if s.holder = .port p then { s with holder := .none } else s

/-! ## Errors of a channel (R110, R111) -/

/-- An error taken by a channel: it fills the empty record or adds to the further-errors count (R110). -/
def Channel.recordError (x : Channel) (e : FirstError) : Channel :=
  match x.firstError with
  | none => { x with firstError := some e }
  | some _ => { x with furtherErrors := satIncr 255 x.furtherErrors }

/-- A CORRECTED outcome counted (R111). -/
def Channel.countCorrected (x : Channel) : Channel := { x with correctable := satIncr 65535 x.correctable }

/-- Capacity of a channel: the sum of the sizes in its slots (R91). -/
def Channel.capacity (x : Channel) : Nat := (x.slots.toList.map (fun sl => sl.getD 0)).sum

/-- The module that holds a segment of those laid over a list of slots in order, the first of them slot `slot`, and the
segment's place in that module; an empty slot takes no segments (R91). -/
def moduleOf (segment slot : Nat) : List (Option Nat) → Option (Nat × Nat)
  | [] => none
  | sl :: rest =>
    if segment < sl.getD 0 then some (slot, segment) else moduleOf (segment - sl.getD 0) (slot + 1) rest

/-- The slot whose module holds a channel-local segment, and the segment's place in it (R91). -/
def Channel.moduleOfSegment (x : Channel) (segment : Nat) : Option (Nat × Nat) := moduleOf segment 0 x.slots.toList

/-- The slot whose module holds a channel-local line, and the line's place in it (R91). -/
def Channel.moduleOfLine (x : Channel) (line : Nat) : Option (Nat × Nat) :=
  (x.moduleOfSegment (line / Config.segmentLines)).map
    (fun y => (y.1, y.2 * Config.segmentLines + line % Config.segmentLines))

/-- Capacity reported: 0 during detection (Table 31). -/
def Channel.reportedCapacity (x : Channel) : Nat :=
  match x.state with
  | .detecting _ _ => 0
  | _ => x.capacity

end Sys2Proof.Machine
end

