-- ==== Sys2Proof/Machine/Tracker.lean ====
section
/-! DEFINITION. Operations over the Request Trackers (Chapter 4): the entries, the admission lists, the counts, and what
one event makes of every entry of a tracker (its fate). -/

namespace Sys2Proof.Machine

/-! ## Entries -/

/-- In WAIT_DATA or WAIT_CHANNEL: the entry stands in the admission lists of its targets (R65, R77). -/
def Entry.waiting (e : Entry) : Bool := decide (e.state = .waitData) || decide (e.state = .waitChannel)

/-- Counted under the port's grants: not RETIRING (R63). -/
def Entry.counted (e : Entry) : Bool := decide (e.state ≠ .retiring)

/-- The entry that a request kind and tag name. A retiring entry is recognised by the tag its operations carry
(R95 note). -/
def Entry.is (e : Entry) (kind : ReqKind) (tag : Byte) : Bool := decide (e.kind = kind) && decide (e.opTag = tag)

/-- Whether a resolution has a target on a channel. -/
def Resolution.on (r : Resolution) (c : ChannelId) : Bool :=
  match r with
  | .source t => decide (t.channel = c)
  | .dest t => decide (t.channel = c)
  | .dual src dst => decide (src.channel = c) || decide (dst.channel = c)

/-- Resolved SOURCE or DUAL (R87, source-side). -/
def Resolution.sourceSide : Resolution → Bool
  | .source _ => true
  | .dest _ => false
  | .dual _ _ => true

/-- Resolved DEST or DUAL (R87, destination-side). -/
def Resolution.destSide : Resolution → Bool
  | .source _ => false
  | .dest _ => true
  | .dual _ _ => true

/-- Resolved SOURCE. -/
def Resolution.isSource : Resolution → Bool
  | .source _ => true
  | _ => false

/-- The 64 bytes of a write: half 1 carries bytes 32..63, half 0 bytes 0..31 (Table 24). -/
def Entry.lineData (e : Entry) : LineData := (e.half1.getD 0 ++ e.half0.getD 0 : BitVec (256 + 256))

/-- The abort of an accepted entry, with its generation seen (Table 28). -/
def Entry.abort (e : Entry) (reason : AbortReason) : OutPacket :=
  match e.kind with
  | .read => .rdAbort e.opTag reason (some e.generation)
  | .write => .wrAbort e.opTag reason (some e.generation)

/-! ## A tracker's lists and counts -/

/-- Counted entries of a kind (R63). -/
def countedOf (kind : ReqKind) (l : List Entry) : Nat :=
  (l.filter (fun e => e.counted && decide (e.kind = kind))).length

/-- Retiring entries (R56). -/
def retiringOf (l : List Entry) : Nat := (l.filter (fun e => !e.counted)).length

/-- Admission list of a channel: the waiting entries that target it in order of intake (R77). -/
def admissionList (l : List Entry) (c : ChannelId) : List Entry := l.filter (fun e => e.waiting && e.resolution.on c)

/-- A tracker with the counted entry that a kind and tag name changed. -/
def updateEntry (l : List Entry) (kind : ReqKind) (tag : Byte) (f : Entry → Entry) : List Entry :=
  l.map (fun e => if e.is kind tag && e.counted then f e else e)

/-- The counted entry of a kind that holds a tag (R63). -/
def countedEntry (l : List Entry) (kind : ReqKind) (tag : Byte) : Option Entry :=
  l.find? (fun e => e.is kind tag && e.counted)

/-- Whether some tracker holds an entry with a property. -/
def State.anyEntry (s : State) (f : Entry → Bool) : Bool := allPorts.any (fun p => (s.tracker p).any f)

/-- Whether a tracker holds a source-side entry of an extent, RETIRING included (R87). -/
def State.hasSourceSide (s : State) (x : ExtentId) : Bool :=
  s.anyEntry (fun e => decide (e.extent = x) && e.resolution.sourceSide)

/-- Whether a tracker holds a destination-side entry of an extent, RETIRING included (R87). -/
def State.hasDestSide (s : State) (x : ExtentId) : Bool :=
  s.anyEntry (fun e => decide (e.extent = x) && e.resolution.destSide)

/-- Whether a tracker holds a holding write for a line of an extent: a write resolved SOURCE and waiting (R87, R149). -/
def State.hasHoldingWrite (s : State) (x : ExtentId) (line : Nat) : Bool :=
  s.anyEntry (fun e => decide (e.extent = x) && decide (e.kind = .write) && e.resolution.isSource && e.waiting &&
    decide (e.line = line))

/-! ## Fates -/

/-- What an event makes of an entry: it stays, perhaps changed; it leaves with a response (R84); or it leaves
without one. -/
inductive Fate where
  | keep (e : Entry)
  | answer (pkt : OutPacket)
  | leave
  deriving DecidableEq, Repr

/-- The entries that stay, in their order. -/
def keptEntries (f : Entry → Fate) : List Entry → List Entry
  | [] => []
  | e :: rest =>
    match f e with
    | .keep e' => e' :: keptEntries f rest
    | _ => keptEntries f rest

/-- The responses of the entries that leave, in order of intake (log 15). -/
def answers (f : Entry → Fate) : List Entry → List OutPacket
  | [] => []
  | e :: rest =>
    match f e with
    | .answer pkt => pkt :: answers f rest
    | _ => answers f rest

/-- How many entries leave with a response. -/
def answeredCount (f : Entry → Fate) (l : List Entry) : Nat := (answers f l).length

/-- An event applied to every entry of port p's tracker in one step. -/
def State.applyFates (s : State) (p : PortId) (f : Entry → Fate) : State :=
  (s.setTracker p (keptEntries f (s.tracker p))).sendAll p (answers f (s.tracker p))

/-- An event applied to every tracker. -/
def State.applyFatesAll (s : State) (f : Entry → Fate) : State := allPorts.foldl (fun s p => s.applyFates p f) s

/-- A port reset (R88): waiting entries leave without a response, entries AT_CHANNEL become RETIRING. -/
def Entry.onPortReset (e : Entry) : Fate :=
  match e.state with
  | .waitData | .waitChannel => .leave
  | .atChannel => .keep { e with state := .retiring }
  | .retiring => .keep e

/-- A force abort of an extent's counted waiting entries, writes only for a downgrade (R86). -/
def Entry.onForceAbort (x : ExtentId) (writesOnly : Bool) (e : Entry) : Fate :=
  if e.waiting && decide (e.extent = x) && (!writesOnly || decide (e.kind = .write)) then .answer (e.abort .forced)
  else .keep e

/-- A write data timer's expiry (R76). -/
def Entry.onDataTimeout (tag : Byte) (e : Entry) : Fate :=
  if e.is .write tag && decide (e.state = .waitData) then .answer (e.abort .dataTimeout) else .keep e

/-- The fault of a channel at a waiting entry (R83): the abort CHANNEL_DOWN, or for a DUAL entry whose destination
alone is on the channel the loss of its destination part. -/
def Entry.onFaultWaiting (c : ChannelId) (e : Entry) : Fate :=
  if e.waiting then
    match e.resolution with
    | .source t => if t.channel = c then .answer (e.abort .channelDown) else .keep e
    | .dest t => if t.channel = c then .answer (e.abort .channelDown) else .keep e
    | .dual src dst =>
      if src.channel = c then .answer (e.abort .channelDown)
      else if dst.channel = c then .keep { e with resolution := .source src }
      else .keep e
  else .keep e

/-- The response of a DUAL entry, decided by its source part alone (R82). -/
def Entry.dualResponse (e : Entry) : OutPacket :=
  match e.sourcePart with
  | some .done => .wrAck e.opTag .done e.generation
  | some .linePoisoned => .wrAck e.opTag .linePoisoned e.generation
  | _ => .wrAbort e.opTag .channelDown (some e.generation)

/-- A DUAL entry after a part ended: it leaves when both parts are done, answered unless it is RETIRING (R82, R88). -/
def Entry.dualFate (e : Entry) : Fate :=
  if e.sourcePart.isSome && e.destPart then
    if e.state = .retiring then .leave else .answer e.dualResponse
  else .keep e

/-- A leaving entry: with the response, or without one when it is RETIRING (R88). -/
def Entry.leaveWith (e : Entry) (pkt : OutPacket) : Fate := if e.state = .retiring then .leave else .answer pkt

/-- The abort of an entry's operations on a channel (R83, R88, R107). -/
def Entry.onOperationAbort (c : ChannelId) (e : Entry) : Fate :=
  if e.waiting then .keep e
  else match e.resolution with
    | .source t => if t.channel = c then e.leaveWith (e.abort .channelDown) else .keep e
    | .dest t => if t.channel = c then e.leaveWith (e.abort .channelDown) else .keep e
    | .dual src dst =>
      Entry.dualFate
        { e with
            sourcePart := match e.sourcePart with
              | some o => some o
              | none => if src.channel = c then some .aborted else none
            destPart := e.destPart || decide (dst.channel = c) }

end Sys2Proof.Machine
end

