-- ==== Sys2Proof/Machine/CopyEngine.lean ====
section
/-! DEFINITION. Operations of the Copy Engine (Chapter 7): the presented candidate, the pairs, the commit, the end of an
abandon, destination faults and the end record. -/

namespace Sys2Proof.Machine

/-- The relocation in progress. -/
def CopyEngine.running? : CopyEngine → Option Relocation
  | .running r => some r
  | _ => none

/-- Length of a relocation's ranges in segments. -/
def Relocation.segments (r : Relocation) : Nat := r.lengthLines / Config.segmentLines

/-! ## The candidate (R148) -/

/-- The candidate the Copy Engine presents: the line at the cursor with its two locations; `asPair` is the form PAIR,
else POISON_WRITE. -/
structure CopyCandidate where
  relocation : Relocation
  src        : Target
  dst        : Target
  asPair     : Bool
  deriving DecidableEq, Repr

/-- The candidate for the line at the cursor while the four conditions of R148 hold: phase COPYING, the cursor below
the length, fewer than 8 pairs in flight and no holding write for the line (R149). The form follows from the state of
the source channel, so a withdrawal and a new offer are the change of this value. -/
def State.copyCandidate (s : State) : Option CopyCandidate :=
  match s.copyEngine with
  | .running r =>
    if r.phase = .copying ∧ r.cursor < r.lengthLines ∧ r.pairs.length < Config.maxPairs ∧
        s.hasHoldingWrite r.extent r.cursor = false then
      match s.layout.decode (r.sourceBase * Config.segmentBytes + r.cursor * Config.lineBytes),
          s.layout.decode (r.targetBase * Config.segmentBytes + r.cursor * Config.lineBytes) with
      | some src, some dst =>
        some { relocation := r, src := src, dst := dst, asPair := decide ((s.channel src.channel).state = .online) }
      | _, _ => none
    else none
  | _ => none

/-- The channel at whose arbiter the candidate stands: the source's for a PAIR, the destination's for a
POISON_WRITE (R148). -/
def CopyCandidate.arbiter (x : CopyCandidate) : ChannelId := if x.asPair then x.src.channel else x.dst.channel

/-- The lowest pair number not in flight (R150). -/
def freePairNumber (pairs : List PairRecord) : Option PairNumber :=
  ([0, 1, 2, 3, 4, 5, 6, 7] : List PairNumber).find? (fun n => pairs.all (fun x => decide (x.number ≠ n)))

/-! ## Pairs (R151, R152) -/

/-- A pair ends when its write part is DONE or ABORTED and its read part, for form PAIR, is COMPLETED or ABORTED
(R152). -/
def PairRecord.ended (x : PairRecord) : Bool :=
  (decide (x.writePart = .done) || decide (x.writePart = .aborted)) &&
    match x.form with
    | .pair _ rp => decide (rp ≠ .outstanding)
    | .poisonWrite => true

/-- The relocation record with the pair of a number changed, and dropped when it has ended. -/
def Relocation.updatePair (r : Relocation) (n : PairNumber) (f : PairRecord → PairRecord) : Relocation :=
  { r with pairs := (r.pairs.map (fun x => if x.number = n then f x else x)).filter (fun x => !x.ended) }

/-- A queue with a pair's placeholder supplied (R105). -/
def supplyQueue (n : PairNumber) (content : LineContent) (q : List Operation) : List Operation :=
  q.map (fun o => if o.origin = .copy n ∧ o.action = .copyWrite none then { o with action := .copyWrite (some content) } else o)

/-- The placeholder of a pair supplied in the queue of its destination channel; where it is gone the data is
discarded (R109, R151). -/
def State.supply (s : State) (c : ChannelId) (n : PairNumber) (content : LineContent) : State :=
  s.setChannel c { s.channel c with queue := supplyQueue n content (s.channel c).queue }

/-! ## Aborted operations (R107, R152) -/

/-- Whether the pair's COPY_READ is in the queue of a channel. -/
def PairRecord.readAt (x : PairRecord) (c : ChannelId) : Bool :=
  match x.form with
  | .pair src rp => decide (src.channel = c) && decide (rp = .outstanding)
  | .poisonWrite => false

/-- Whether the pair's COPY_WRITE is in the queue of a channel. -/
def PairRecord.writeAt (x : PairRecord) (c : ChannelId) : Bool :=
  decide (x.dst.channel = c) && (decide (x.writePart = .placeholder) || decide (x.writePart = .supplied))

/-- Whether the abort of a channel's queue makes the Copy Engine supply this pair's placeholder with the poison
marker: the read part is aborted and the placeholder stands at the other channel (R152). -/
def PairRecord.poisonedByAbort (x : PairRecord) (c : ChannelId) : Bool :=
  x.readAt c && !x.writeAt c && decide (x.writePart = .placeholder)

/-- A pair after the operations of a channel's queue were aborted (R152). -/
def PairRecord.onAbort (c : ChannelId) (x : PairRecord) : PairRecord :=
  { x with
      form := match x.form with
        | .pair src rp => .pair src (if x.readAt c then .aborted else rp)
        | .poisonWrite => .poisonWrite
      writePart :=
        if x.writeAt c then .aborted else if x.poisonedByAbort c then .supplied else x.writePart }

/-- A destination fault (R159, R160): in COPYING the abandon starts with reason DEST_FAULT, in FINISHING it is
recorded, in ABANDONING it has no further effect. -/
def Relocation.destinationFault (r : Relocation) : Relocation :=
  match r.phase with
  | .copying => { r with phase := .abandoning .destFault, destFault := true }
  | .finishing => { r with destFault := true }
  | .abandoning _ => r

/-- The relocation record after the operations of a channel's queue were aborted: an aborted COPY_WRITE is a
destination fault in COPYING (R152, R159); each placeholder supplied with poison adds 1 to the poisoned-line count. -/
def Relocation.onAbort (r : Relocation) (c : ChannelId) : Relocation :=
  let r' : Relocation :=
    { r with pairs := (r.pairs.map (PairRecord.onAbort c)).filter (fun x => !x.ended),
             poisonedLines := r.poisonedLines + (r.pairs.filter (fun x => x.poisonedByAbort c)).length }
  if r.pairs.any (fun x => x.writeAt c) && decide (r.phase = .copying) then r'.destinationFault else r'

/-- The Copy Engine after the operations of a channel's queue were aborted (R107): its pairs, and the poison marker
supplied to the placeholders whose read is lost. -/
def State.copyOnAbort (s : State) (c : ChannelId) : State :=
  match s.copyEngine with
  | .running r =>
    (r.pairs.filter (fun x => x.poisonedByAbort c)).foldl (fun s x => s.supply x.dst.channel x.number .poison)
      { s with copyEngine := .running (r.onAbort c) }
  | _ => s

/-- The report that a channel entered FAULTED (R108): a destination fault when the channel holds a segment of the
target range (R159, R160). -/
def State.copyOnFaultReport (s : State) (c : ChannelId) : State :=
  match s.copyEngine with
  | .running r =>
    if s.layout.rangeOn r.targetBase r.segments c then { s with copyEngine := .running r.destinationFault } else s
  | _ => s

/-! ## Ends (R155 to R157, R161) -/

/-- The end record (R156). -/
def State.endRecord (s : State) (x : ExtentId) (outcome : RecordOutcome) : CompletionRecord :=
  { changeId := 0, kind := .relocationEnd, extent := some x, port := none, submitter := none, outcome := outcome,
    generationAfter := s.generationOf x }

/-- An end record posted, the Copy Engine IDLE, or held in ENDING when no unreserved place is free (R157). -/
def State.finishCopy (s : State) (record : CompletionRecord) : State :=
  if s.placeFree then ({ s with copyEngine := .idle }).postRecord record else { s with copyEngine := .ending record }

/-- A record's fields after the relocation commit: the target base, the generation advanced (R155). -/
def ExtentBody.relocated (b : ExtentBody) (targetBase : Nat) : ExtentBody :=
  { b with poolBase := targetBase, generation := b.generation + 1 }

/-- A record made ACTIVE with its fields changed; a FREE record stays. -/
def State.activate (s : State) (x : ExtentId) (f : ExtentBody → ExtentBody) : State :=
  match (s.extent x).body? with
  | none => s
  | some b => s.setExtent x (.active (f b))

/-- The relocation commit (R155). -/
def State.commitRelocation (s : State) (r : Relocation) : State :=
  let t := s.activate r.extent (fun b => b.relocated r.targetBase)
  t.finishCopy (t.endRecord r.extent (.relocationDone r.poisonedLines r.destFault))

/-- The end of an abandon (R161). -/
def State.endAbandon (s : State) (r : Relocation) (reason : AbandonReason) : State :=
  let t := s.activate r.extent id
  t.finishCopy (t.endRecord r.extent (.relocationAbandoned reason))

/-- Entry to FINISHING when in COPYING the cursor is at the length and no pair is in flight (R154); the commit follows
in the same step when no tracker holds a source-side entry of the extent (R155). -/
def State.finishIfCopied (s : State) : State :=
  match s.copyEngine with
  | .running r =>
    if r.phase = .copying ∧ r.cursor = r.lengthLines ∧ r.pairs = [] then
      let r' : Relocation := { r with phase := .finishing }
      let t := { s with copyEngine := .running r' }
      if t.hasSourceSide r.extent then t else t.commitRelocation r'
    else s
  | _ => s

end Sys2Proof.Machine
end

