-- ==== Sys2Proof/Machine/Operands.lean ====
section
/-! DEFINITION. Reading the operands of management requests: the ports, channels and extents that check 1 of R177
tests (R198), and the operands of SUBMIT (R115, Table 37). -/

namespace Sys2Proof.Machine

/-- A port operand, 0..3 (R198). -/
def portOperand (b : Byte) : Option PortId := if h : b.toNat < 4 then some ⟨b.toNat, h⟩ else none

/-- A channel operand, CH0 or CH1 (R198). -/
def channelOperand (b : Byte) : Option ChannelId := if h : b.toNat < 2 then some ⟨b.toNat, h⟩ else none

/-- An extent operand, 0..63 (R198). -/
def extentOperand (b : Byte) : Option ExtentId := if h : b.toNat < 64 then some ⟨b.toNat, h⟩ else none

/-- Rights by code (Table 74). -/
def rightsOperand (b : Byte) : Option Rights := if b = 1 then some .read else if b = 2 then some .readWrite else none

/-- Share mode by code (Table 74). -/
def shareOperand (b : Byte) : Option ShareMode :=
  if b = 1 then some .exclusive else if b = 2 then some .shared else none

/-- Layout mode by code (Table 74). -/
def modeOperand (b : Byte) : Option RangeMode :=
  if b = 0 then some .ch0 else if b = 1 then some .ch1 else if b = 2 then some .both else none

/-- A flag, 0 or 1. -/
def flagOperand (b : Byte) : Option Bool := if b = 0 then some false else if b = 1 then some true else none

/-- A number within bounds, both included. -/
def inRange (lo hi n : Nat) : Option Nat := if lo ≤ n ∧ n ≤ hi then some n else none

end Sys2Proof.Machine

namespace Sys2Proof

open Sys2Proof.Machine

/-- A value in its range of Table 37 whose presence bit is set (R115; bits numbered in Table 68, note 1). -/
def SubmitOperands.present {α : Type} (o : SubmitOperands) (bit : Nat) (v : Option α) : Option α :=
  if o.presence.getLsbD bit then v else none

def SubmitOperands.extent? (o : SubmitOperands) : Option ExtentId := o.present 0 (extentOperand o.extent)
def SubmitOperands.port? (o : SubmitOperands) : Option PortId := o.present 1 (portOperand o.port)
def SubmitOperands.secondPort? (o : SubmitOperands) : Option PortId := o.present 2 (portOperand o.secondPort)
def SubmitOperands.windowBase? (o : SubmitOperands) : Option Nat := o.present 3 (inRange 0 1023 o.windowBase.toNat)
def SubmitOperands.rights? (o : SubmitOperands) : Option Rights := o.present 4 (rightsOperand o.rights)
def SubmitOperands.poolBase? (o : SubmitOperands) : Option Nat := o.present 5 (inRange 0 1023 o.poolBase.toNat)
def SubmitOperands.length? (o : SubmitOperands) : Option Nat := o.present 6 (inRange 1 1024 o.length.toNat)
def SubmitOperands.shareMode? (o : SubmitOperands) : Option ShareMode := o.present 7 (shareOperand o.shareMode)
def SubmitOperands.windowSize? (o : SubmitOperands) : Option Nat := o.present 8 (inRange 0 1024 o.windowSize.toNat)
def SubmitOperands.confirm? (o : SubmitOperands) : Option Bool := o.present 9 (flagOperand o.confirm)
def SubmitOperands.force? (o : SubmitOperands) : Option Bool := o.present 10 (flagOperand o.force)

/-- The change a SUBMIT names, or `none` when the kind is not one of the nine, an operand the kind uses is missing or
out of range, or a TRANSFER names one port twice (R115, checks 1 and 2; Table 37, Table 73). -/
def SubmitOperands.change? (o : SubmitOperands) : Option ChangeOp :=
  match o.kind.toNat with
  | 1 => do return .create (← o.extent?) (← o.poolBase?) (← o.length?) (← o.shareMode?)
  | 2 => do return .retire (← o.extent?)
  | 3 => do return .map (← o.extent?) (← o.port?) (← o.windowBase?) (← o.rights?)
  | 4 => do return .setShare (← o.extent?) (← o.shareMode?)
  | 5 => do return .setWindow (← o.port?) (← o.windowSize?)
  | 6 => do return .setRights (← o.extent?) (← o.port?) (← o.rights?) (← o.confirm?) (← o.force?)
  | 7 => do return .unmap (← o.extent?) (← o.port?) (← o.confirm?) (← o.force?)
  | 8 => do
    let fromPort ← o.port?
    let toPort ← o.secondPort?
    if fromPort = toPort then none
    else return .transfer (← o.extent?) fromPort toPort (← o.windowBase?) (← o.rights?) (← o.confirm?) (← o.force?)
  | 9 => do return .relocate (← o.extent?) (← o.poolBase?)
  | _ => none

end Sys2Proof

namespace Sys2Proof.Machine

/-- The extent a change names; SET_WINDOW names none (Table 37). -/
def ChangeOp.extent? : ChangeOp → Option ExtentId
  | .create e _ _ _ => some e
  | .retire e => some e
  | .map e _ _ _ => some e
  | .setShare e _ => some e
  | .setWindow _ _ => none
  | .setRights e _ _ _ _ => some e
  | .unmap e _ _ _ => some e
  | .transfer e _ _ _ _ _ _ => some e
  | .relocate e _ => some e

/-- The kind of a change as completion records name it (Table 43). -/
def ChangeOp.recordKind : ChangeOp → RecordKind
  | .create _ _ _ _ => .create
  | .retire _ => .retire
  | .map _ _ _ _ => .map
  | .setShare _ _ => .setShare
  | .setWindow _ _ => .setWindow
  | .setRights _ _ _ _ _ => .setRights
  | .unmap _ _ _ _ => .unmap
  | .transfer _ _ _ _ _ _ _ => .transfer
  | .relocate _ _ => .relocate

/-- The port a completion record carries: only the window's port of a SET_WINDOW (Table 43). -/
def ChangeOp.recordPort : ChangeOp → Option PortId
  | .setWindow p _ => some p
  | _ => none

/-- The completion record of a change with an outcome, written in state `s` (R139): the generation is the extent's
when the extent is not FREE. -/
def State.changeRecord (s : State) (ch : ChangeRecord) (outcome : RecordOutcome) : CompletionRecord :=
  { changeId := ch.id, kind := ch.op.recordKind, extent := ch.op.extent?, port := ch.op.recordPort,
    submitter := some ch.submitter, outcome := outcome,
    generationAfter := ch.op.extent?.bind s.generationOf }

end Sys2Proof.Machine
end

