-- ==== Sys2Proof/Machine/ChangeEngine.lean ====
section
/-! DEFINITION. Operations of the Change Engine (Chapter 6): starting the head change, the validation checks of Table 38,
immediate commits, and the phases of a handover. -/

namespace Sys2Proof.Machine

/-! ## Starting and ending the head change (R116) -/

/-- The head change, when it may start: the queue not empty, no change active, an unreserved completion place. -/
def State.startable (s : State) : Option ChangeRecord :=
  if s.active = none ∧ s.placeFree = true then s.changeQueue.head? else none

/-- The head change ended with an outcome: it leaves the queue, its record is posted and its notices are offered in
one step (R125, R135). -/
def State.endHead (s : State) (ch : ChangeRecord) (outcome : RecordOutcome) (notices : List (PortId × NoticeBody)) : State :=
  let t := { s with changeQueue := s.changeQueue.tail, active := none }
  t.announce (t.changeRecord ch outcome) notices

/-- A rejected change: nothing but its own record and the queue changes (R117). -/
def State.rejectHead (s : State) (ch : ChangeRecord) (reason : RejectReason) : State :=
  s.endHead ch (.rejected reason) []

/-- The first check that fails decides (R117). -/
def firstFailure : List (Bool × RejectReason) → Option RejectReason
  | [] => none
  | (fails, reason) :: rest => if fails then some reason else firstFailure rest

/-- A validated change: rejected with the reason of the first failing check, or carried on. -/
def State.validated (s : State) (ch : ChangeRecord) (checks : List (Bool × RejectReason)) (pass : State → State) : State :=
  match firstFailure checks with
  | some reason => s.rejectHead ch reason
  | none => pass s

/-! ## What the checks read -/

def Extent.isFree : Extent → Bool
  | .free => true
  | _ => false

def Extent.isActive : Extent → Bool
  | .active _ => true
  | _ => false

def Extent.isRelocating : Extent → Bool
  | .relocating _ => true
  | _ => false

/-- Length of an extent, 0 when FREE. -/
def State.lengthOf (s : State) (x : ExtentId) : Nat :=
  match (s.extent x).body? with
  | none => 0
  | some b => b.length

/-- Mapping of an extent for a port. -/
def State.mappingOf (s : State) (x : ExtentId) (p : PortId) : Option Mapping :=
  match (s.extent x).body? with
  | none => none
  | some b => b.mapping[p]

/-- Whether two ranges "from a up to a + la" and "from b up to b + lb" share a member. -/
def rangesShare (a la b lb : Nat) : Bool := decide (a < b + lb) && decide (b < a + la) && decide (0 < la) && decide (0 < lb)

/-- Whether a range of pool segments shares a segment with an occupied one: another extent's range or the target range
of the relocation in progress (R4). -/
def State.overlapsPool (s : State) (base length : Nat) : Bool :=
  allExtents.any (fun x =>
    match (s.extent x).body? with
    | none => false
    | some b => rangesShare b.poolBase b.length base length) ||
  match s.copyEngine with
  | .running r => rangesShare r.targetBase r.segments base length
  | _ => false

/-- Whether a segment of a range has a FAULTED channel in its set (R34). -/
def State.onFaulted (s : State) (base length : Nat) : Bool :=
  ([0, 1] : List ChannelId).any (fun c =>
    decide ((s.channel c).state = .faulted) && s.layout.rangeOn base length c)

/-- Whether window segments of port p from `windowBase` up to `windowBase + length` share one with a present mapping of
the port to another extent (R6). -/
def State.overlapsWindow (s : State) (x : ExtentId) (p : PortId) (windowBase length : Nat) : Bool :=
  allExtents.any (fun y =>
    decide (y ≠ x) &&
      match s.mappingOf y p with
      | none => false
      | some m => rangesShare m.windowBase (s.lengthOf y) windowBase length)

/-- Number of READ_WRITE mappings of a record. -/
def ExtentBody.writers (b : ExtentBody) : Nat :=
  (allPorts.filter (fun p =>
    match b.mapping[p] with
    | none => false
    | some m => decide (m.rights = .readWrite))).length

/-- The share law: an EXCLUSIVE extent has at most one READ_WRITE mapping (R8). -/
def ExtentBody.shareLaw (b : ExtentBody) : Bool := decide (b.share = .shared) || decide (b.writers ≤ 1)

/-- A change of a record would break the share law (R8). -/
def State.breaksShare (s : State) (x : ExtentId) (f : ExtentBody → ExtentBody) : Bool :=
  match (s.extent x).body? with
  | none => false
  | some b => !(f b).shareLaw

/-! ## Edits of a record -/

def ExtentBody.setMapping (b : ExtentBody) (p : PortId) (m : Option Mapping) : ExtentBody :=
  { b with mapping := b.mapping.set p m }

/-- Rights of a present mapping changed (R6). -/
def ExtentBody.setRights (b : ExtentBody) (p : PortId) (r : Rights) : ExtentBody :=
  b.setMapping p (b.mapping[p].map (fun m => { m with rights := r }))

/-- The generation advanced by a committed mapping change (R9). -/
def ExtentBody.advance (b : ExtentBody) : ExtentBody := { b with generation := b.generation + 1 }

/-- What a handover's commit makes of the record's mappings (R135). -/
def HandoverKind.apply (k : HandoverKind) (losing : PortId) (b : ExtentBody) : ExtentBody :=
  match k with
  | .unmap => b.setMapping losing none
  | .downgrade => b.setRights losing .read
  | .transfer toPort wb r => (b.setMapping losing none).setMapping toPort (some { windowBase := wb, rights := r })

/-! ## Validation checks (Table 38) -/

def State.createChecks (s : State) (x : ExtentId) (base length : Nat) : List (Bool × RejectReason) :=
  [(!s.layout.isOnline, .poolOffline),
   ((s.extent x).isRelocating, .extentBusy),
   (!(s.extent x).isFree, .extentState),
   (decide (s.layout.size < base + length), .range),
   (s.overlapsPool base length, .overlapPool),
   (s.onFaulted base length, .channelDown)]

def State.activeChecks (s : State) (x : ExtentId) : List (Bool × RejectReason) :=
  [((s.extent x).isRelocating, .extentBusy), (!(s.extent x).isActive, .extentState)]

def State.retireChecks (s : State) (x : ExtentId) : List (Bool × RejectReason) :=
  s.activeChecks x ++ [(allPorts.any (fun p => (s.mappingOf x p).isSome), .alreadyMapped)]

def State.mapChecks (s : State) (x : ExtentId) (p : PortId) (wb : Nat) (r : Rights) : List (Bool × RejectReason) :=
  s.activeChecks x ++
  [((s.mappingOf x p).isSome, .alreadyMapped),
   (decide ((s.port p).windowSize < wb + s.lengthOf x), .windowSize),
   (s.overlapsWindow x p wb (s.lengthOf x), .overlapWindow),
   (decide (r = .readWrite) && s.breaksShare x (fun b => b.setMapping p (some { windowBase := wb, rights := r })),
    .shareRule)]

def State.setShareChecks (s : State) (x : ExtentId) (sh : ShareMode) : List (Bool × RejectReason) :=
  s.activeChecks x ++ [(decide (sh = .exclusive) && s.breaksShare x (fun b => { b with share := sh }), .shareRule)]

def State.setWindowChecks (s : State) (p : PortId) (size : Nat) : List (Bool × RejectReason) :=
  [(decide ((s.port p).state = .opened) || decide ((s.port p).state = .closing), .portOpen),
   (allExtents.any (fun x =>
      match s.mappingOf x p with
      | none => false
      | some m => decide (size < m.windowBase + s.lengthOf x)), .windowSize)]

/-- An upgrade: the mapping holds READ and the change gives READ_WRITE (R122). -/
def State.isUpgrade (s : State) (x : ExtentId) (p : PortId) (r : Rights) : Bool :=
  match s.mappingOf x p with
  | none => false
  | some m => decide (m.rights = .read) && decide (r = .readWrite)

def State.setRightsChecks (s : State) (x : ExtentId) (p : PortId) (r : Rights) : List (Bool × RejectReason) :=
  s.activeChecks x ++
  [((s.mappingOf x p).isNone, .notMapped),
   (s.isUpgrade x p r && s.breaksShare x (fun b => b.setRights p .readWrite), .shareRule)]

def State.unmapChecks (s : State) (x : ExtentId) (p : PortId) : List (Bool × RejectReason) :=
  s.activeChecks x ++ [((s.mappingOf x p).isNone, .notMapped)]

def State.transferChecks (s : State) (x : ExtentId) (f t : PortId) (wb : Nat) (r : Rights) : List (Bool × RejectReason) :=
  s.activeChecks x ++
  [((s.mappingOf x f).isNone, .notMapped),
   ((s.mappingOf x t).isSome, .alreadyMapped),
   (decide ((s.port t).windowSize < wb + s.lengthOf x), .windowSize),
   (s.overlapsWindow x t wb (s.lengthOf x), .overlapWindow),
   (s.breaksShare x (HandoverKind.apply (.transfer t wb r) f), .shareRule)]

/-- The checks of a RELOCATE in the order of Table 38 and R124. While a relocation runs, ENGINE_BUSY is tested before
OVERLAP_POOL and decides, also for a target range that touches the occupied one, of which R5 says OVERLAP_POOL
(log 37). -/
def State.relocateChecks (s : State) (x : ExtentId) (base : Nat) : List (Bool × RejectReason) :=
  s.activeChecks x ++
  [(decide (s.copyEngine ≠ .idle), .engineBusy),
   (decide (s.layout.size < base + s.lengthOf x), .range),
   (s.overlapsPool base (s.lengthOf x), .overlapPool),
   (s.onFaulted base (s.lengthOf x), .channelDown)]

/-! ## Handovers (section 6.4) -/

/-- Whether only writes are counted: a downgrade (Table 41). -/
def Handover.writesOnly (h : Handover) : Bool := decide (h.kind = .downgrade)

/-- Entries of the losing port's tracker that a handover counts, in every state (R85). -/
def State.countedEntries (s : State) (h : Handover) : Nat :=
  ((s.tracker h.losing).filter (fun e =>
    decide (e.extent = h.extent) && (!h.writesOnly || decide (e.kind = .write)))).length

/-- The drain count: asked for on entry to DRAIN and lowered by every removal, so it is the number of counted entries
in DRAIN, and 0 before (R85, R131, R132). -/
def State.drainCount (s : State) (h : Handover) : Nat := if h.phase = .drain then s.countedEntries h else 0

/-- The confirmation recorded; only a handover still in CONFIRM has none, and it does not commit there. -/
def Handover.confirmationOf (h : Handover) : Confirmation := h.confirmation.getD .notRequested

/-- Outcome of a commit (R135). -/
def Handover.doneOutcome (h : Handover) : RecordOutcome :=
  if h.forced then .forcedDone h.confirmationOf h.abortedCount else .doneHandover h.confirmationOf

/-- Notices of a commit with the generation after it (Table 42); a port that is not OPEN discards its own. -/
def Handover.commitNotices (h : Handover) (g : Generation) : List (PortId × NoticeBody) :=
  match h.kind with
  | .unmap => [(h.losing, .revoked h.extent h.change.id g)]
  | .downgrade => [(h.losing, .downgraded h.extent h.change.id g)]
  | .transfer toPort wb r =>
    [(h.losing, .revoked h.extent h.change.id g), (toPort, .mapped h.extent h.change.id g wb r)]

/-- The commit of a handover (R135): the new mapping, the generation advanced, the record ACTIVE, the change off the
queue, its record posted and its notices offered, in one step. -/
def State.commitHandover (s : State) (h : Handover) : State :=
  let t := s.activate h.extent (fun b => (h.kind.apply h.losing b).advance)
  t.endHead h.change h.doneOutcome (h.commitNotices ((t.generationOf h.extent).getD 0))

/-- A rollback (R136): the map unchanged, the record ACTIVE, RESTORED to the losing port when a PENDING notice was
sent. -/
def State.rollback (s : State) (h : Handover) (outcome : RecordOutcome) : State :=
  let t := s.activate h.extent id
  let notices :=
    match h.pendingNotice with
    | .sent _ => [(h.losing, NoticeBody.restored h.extent h.change.id ((t.generationOf h.extent).getD 0))]
    | _ => []
  t.endHead h.change outcome notices

/-- A held PENDING notice is discarded when the handover leaves CONFIRM (R128). -/
def PendingNotice.dropHeld : PendingNotice → PendingNotice
  | .held => .none
  | x => x

/-- The handover as it enters DRAIN (R131): the confirm timer stopped, the drain timer started. -/
def Handover.toDrain (h : Handover) (c : Confirmation) (drainLimit : Nat) : Handover :=
  { h with phase := .drain, confirmation := some c, pendingNotice := h.pendingNotice.dropHeld, roomReported := false,
           confirmTimer := none, drainTimer := some drainLimit }

/-- Entry to DRAIN; with a drain count of 0 the handover commits at once (R131). -/
def State.enterDrain (s : State) (h : Handover) (c : Confirmation) : State :=
  let h' := h.toDrain c s.limits.drain
  let t := { s with active := some h' }
  if t.countedEntries h' = 0 then t.commitHandover h' else t

/-- The PENDING notice of a handover (R127). -/
def Handover.pendingBody (h : Handover) (g : Generation) : NoticeBody :=
  match h.kind with
  | .downgrade => .pendingDowngrade h.extent h.change.id g
  | _ => .pendingRevoke h.extent h.change.id g

/-- The PENDING notice offered to the losing port's queue: sent with its sequence when there is room, else held
(R127, R168). -/
def State.offerPending (s : State) (h : Handover) : State :=
  if s.noticeRoom h.losing then
    ({ s with active := some { h with pendingNotice := .sent (s.noticeQueue h.losing).next, roomReported := false } }).offerNotice
      h.losing (h.pendingBody ((s.generationOf h.extent).getD 0))
  else { s with active := some { h with pendingNotice := .held, roomReported := false } }

/-- Entry to CONFIRM (R127). -/
def State.enterConfirm (s : State) (h : Handover) : State :=
  s.offerPending { h with phase := .confirm, confirmTimer := some s.limits.confirm }

/-- The active change as R126 sets it up, before its phase is entered. -/
def newHandover (ch : ChangeRecord) (x : ExtentId) (losing : PortId) (kind : HandoverKind) (force : Bool) : Handover :=
  { change := ch, extent := x, losing := losing, kind := kind, force := force, phase := .drain, forced := false,
    confirmation := none, pendingNotice := .none, roomReported := false, confirmTimer := none, drainTimer := none,
    abortedCount := 0 }

/-- The record CHANGING with the active change id (R10, R126). -/
def State.markChanging (s : State) (x : ExtentId) (id : Nat) : State :=
  match (s.extent x).body? with
  | none => s
  | some b => s.setExtent x (.changing b id)

/-- A validated handover kind becomes the active handover (R126). -/
def State.startHandover (s : State) (ch : ChangeRecord) (x : ExtentId) (losing : PortId) (kind : HandoverKind)
    (confirm force : Bool) : State :=
  let t := s.markChanging x ch.id
  let h := newHandover ch x losing kind force
  if confirm then
    if (t.port losing).state = .opened then t.enterConfirm h else t.enterDrain h .portNotOpen
  else t.enterDrain h .notRequested

/-- The losing port leaves OPEN during CONFIRM: the handover counts it as confirmation (R129). -/
def State.confirmByLoss (s : State) (p : PortId) : State :=
  match s.active with
  | some h => if h.phase = .confirm ∧ h.losing = p then s.enterDrain h .confirmedByLoss else s
  | none => s

/-! ## Map commits (R125) -/

/-- An immediate commit: the record changed and ACTIVE, DONE posted, the notice offered. -/
def State.commitImmediate (s : State) (ch : ChangeRecord) (x : ExtentId) (f : ExtentBody → ExtentBody)
    (notices : Generation → List (PortId × NoticeBody)) : State :=
  let t := s.activate x f
  t.endHead ch .doneImmediate (notices ((t.generationOf x).getD 0))

end Sys2Proof.Machine
end

