-- ==== Sys2Proof/Machine/Changes.lean ====
section
/-! DEFINITION. Commands of the Change Engine (Chapter 6): the start of each kind of change at the head of the queue, the
handover's timers, its commit, and the re-offer of a held PENDING notice. -/

namespace Sys2Proof.Machine

/-! ## Starts (R116 to R125) -/

/-- The start of the head change (R116), when it may start; `act` is the validation and the outcome of its kind. -/
def State.startHead (s : State) (act : State → ChangeRecord → State) : State :=
  s.whenRunning fun s =>
    match s.startable with
    | none => s
    | some ch => act s ch

/-- The record a CREATE writes (Table 39). -/
def newExtent (base length : Nat) (sh : ShareMode) : ExtentBody :=
  { poolBase := base, length := length, share := sh, generation := 0, mapping := Vector.replicate 4 none }

/-- CREATE (R118, R125). -/
def execCreate (s : State) : Host.Outcome State Fault Refusal :=
  .next (s.startHead fun s ch =>
    match ch.op with
    | .create x base length sh =>
      s.validated ch (s.createChecks x base length) fun s =>
        (s.setExtent x (.active (newExtent base length sh))).endHead ch .doneImmediate []
    | _ => s)

/-- RETIRE (R119, R125). -/
def execRetire (s : State) : Host.Outcome State Fault Refusal :=
  .next (s.startHead fun s ch =>
    match ch.op with
    | .retire x =>
      s.validated ch (s.retireChecks x) fun s => (s.setExtent x .free).endHead ch .doneImmediate []
    | _ => s)

/-- MAP (R120, R125). -/
def execMap (s : State) : Host.Outcome State Fault Refusal :=
  .next (s.startHead fun s ch =>
    match ch.op with
    | .map x p wb r =>
      s.validated ch (s.mapChecks x p wb r) fun s =>
        s.commitImmediate ch x (fun b => (b.setMapping p (some { windowBase := wb, rights := r })).advance)
          (fun g => [(p, .mapped x ch.id g wb r)])
    | _ => s)

/-- SET_SHARE (R119, R125). -/
def execSetShare (s : State) : Host.Outcome State Fault Refusal :=
  .next (s.startHead fun s ch =>
    match ch.op with
    | .setShare x sh =>
      s.validated ch (s.setShareChecks x sh) fun s =>
        s.commitImmediate ch x (fun b => { b with share := sh }) (fun _ => [])
    | _ => s)

/-- Link Port n after a SET_WINDOW commit (R48, R121): the new size, and in AWAIT_OPEN the acceptance cleared. -/
def LinkPort.withWindow (x : LinkPort) (size : Nat) : LinkPort :=
  { x with windowSize := size, acceptance := if x.state = .awaitOpen then none else x.acceptance }

/-- SET_WINDOW (R121, R125). -/
def execSetWindow (s : State) : Host.Outcome State Fault Refusal :=
  .next (s.startHead fun s ch =>
    match ch.op with
    | .setWindow p size =>
      s.validated ch (s.setWindowChecks p size) fun s =>
        (s.setPort p ((s.port p).withWindow size)).endHead ch .doneImmediate []
    | _ => s)

/-- A validated SET_RIGHTS (R122): an upgrade commits, equal rights complete at once, a downgrade starts a handover. -/
def State.applyRights (s : State) (ch : ChangeRecord) (x : ExtentId) (p : PortId) (r : Rights) (confirm force : Bool) :
    State :=
  match s.mappingOf x p with
  | none => s
  | some m =>
    if m.rights = r then s.endHead ch .doneImmediate []
    else match r with
      | .readWrite =>
        s.commitImmediate ch x (fun b => (b.setRights p .readWrite).advance) (fun g => [(p, .upgraded x ch.id g)])
      | .read => s.startHandover ch x p .downgrade confirm force

/-- SET_RIGHTS (R122). -/
def execSetRights (s : State) : Host.Outcome State Fault Refusal :=
  .next (s.startHead fun s ch =>
    match ch.op with
    | .setRights x p r confirm force =>
      s.validated ch (s.setRightsChecks x p r) fun s => s.applyRights ch x p r confirm force
    | _ => s)

/-- UNMAP (R123, R126). -/
def execUnmap (s : State) : Host.Outcome State Fault Refusal :=
  .next (s.startHead fun s ch =>
    match ch.op with
    | .unmap x p confirm force =>
      s.validated ch (s.unmapChecks x p) fun s => s.startHandover ch x p .unmap confirm force
    | _ => s)

/-- TRANSFER (R123, R126). -/
def execTransfer (s : State) : Host.Outcome State Fault Refusal :=
  .next (s.startHead fun s ch =>
    match ch.op with
    | .transfer x f t wb r confirm force =>
      s.validated ch (s.transferChecks x f t wb r) fun s => s.startHandover ch x f (.transfer t wb r) confirm force
    | _ => s)

/-- The relocation record at its start (R147). -/
def newRelocation (x : ExtentId) (b : ExtentBody) (base : Nat) : Relocation :=
  { extent := x, sourceBase := b.poolBase, targetBase := base, lengthLines := b.length * Config.segmentLines,
    phase := .copying, cursor := 0, pairs := [], poisonedLines := 0, destFault := false }

/-- A validated RELOCATE (R124, R147). -/
def State.startRelocation (s : State) (ch : ChangeRecord) (x : ExtentId) (base : Nat) : State :=
  match (s.extent x).body? with
  | none => s
  | some b =>
    ({ s.setExtent x (.relocating b) with copyEngine := .running (newRelocation x b base) }).endHead ch .accepted []

/-- RELOCATE (R124). -/
def execRelocate (s : State) : Host.Outcome State Fault Refusal :=
  .next (s.startHead fun s ch =>
    match ch.op with
    | .relocate x base => s.validated ch (s.relocateChecks x base) fun s => s.startRelocation ch x base
    | _ => s)

/-! ## A handover's timers, commit and notice -/

/-- CONFIRM_TIMER_EXPIRY (R130): the handover rolls back CONFIRM_TIMEOUT. -/
def execConfirmTimerExpiry (s : State) : Host.Outcome State Fault Refusal :=
  .next (s.whenRunning fun s =>
    match s.active with
    | none => s
    | some h => if h.phase = .confirm ∧ h.confirmTimer.isSome = true then s.rollback h .confirmTimeout else s)

/-- The handover after a force abort of `aborted` entries (R134). -/
def Handover.afterForce (h : Handover) (aborted : Nat) : Handover :=
  { h with forced := true, abortedCount := aborted, drainTimer := none }

/-- A drain timer's expiry with force (R86, R134): the waiting entries aborted FORCED; the commit follows in the same
step when nothing counted is left. The aborts are handed to the losing port before the commit's REVOKED or DOWNGRADED, an
order that R51 leaves open (log 15). -/
def State.forceDrain (s : State) (h : Handover) : State :=
  let fate := Entry.onForceAbort h.extent h.writesOnly
  let h' := h.afterForce (answeredCount fate (s.tracker h.losing))
  let t : State := { s.applyFates h.losing fate with active := some h' }
  if t.countedEntries h' = 0 then t.commitHandover h' else t

/-- DRAIN_TIMER_EXPIRY (R133, R134). A count already fallen to 0 has stopped the timer (R132). -/
def execDrainTimerExpiry (s : State) : Host.Outcome State Fault Refusal :=
  .next (s.whenRunning fun s =>
    match s.active with
    | none => s
    | some h =>
      if h.phase = .drain ∧ h.drainTimer.isSome = true ∧ s.countedEntries h ≠ 0 then
        if h.force then s.forceDrain h else s.rollback h (.drainTimeout (s.countedEntries h))
      else s)

/-- HANDOVER_COMMIT (R132, R135): in DRAIN with a count of 0. It is a step of its own, after the one that removed the last
counted entry, so REVOKED or DOWNGRADED reaches the Link Port after the last response to the losing port, of which R51 and
section 11.2 let the node receive either first (log 42). -/
def execHandoverCommit (s : State) : Host.Outcome State Fault Refusal :=
  .next (s.whenRunning fun s =>
    match s.active with
    | none => s
    | some h => if h.phase = .drain ∧ s.countedEntries h = 0 then s.commitHandover h else s)

/-- PENDING_NOTICE_REOFFER (R127, R168): a held PENDING notice is offered again on the report of room. -/
def execPendingNoticeReoffer (s : State) : Host.Outcome State Fault Refusal :=
  .next (s.whenRunning fun s =>
    match s.active with
    | none => s
    | some h =>
      if h.phase = .confirm ∧ h.pendingNotice = .held ∧ h.roomReported = true then s.offerPending h else s)

end Sys2Proof.Machine
end

