-- ==== Sys2Proof/Machine/Arbiter.lean ====
section
/-! DEFINITION. The work queues and the admission arbiters (sections 5.3 and 5.4): places, candidates, eligibility, the
scan of a grant, and the admission of a tracker entry or a copy pair. -/

namespace Sys2Proof.Machine

/-! ## Places (R96) -/

/-- The arbiter position of an operation's origin. -/
def positionOf : Origin → Position
  | .port p _ => p.castSucc
  | .copy _ => 4

/-- Reserved places of an origin in use. -/
def Channel.reservedUsed (x : Channel) (pos : Position) : Nat :=
  (x.queue.filter (fun o => decide (positionOf o.origin = pos) && decide (o.slot = .reserved))).length

/-- Shared places in use. -/
def Channel.sharedUsed (x : Channel) : Nat := (x.queue.filter (fun o => decide (o.slot = .shared))).length

/-- Usable places of an origin: its free reserved places and the free shared places (R96, R98). -/
def Channel.usable (x : Channel) (pos : Position) : Nat :=
  (Config.reservedPlaces - x.reservedUsed pos) + (Config.sharedPlaces - x.sharedUsed)

/-- The class of place an admitted operation takes: reserved when one of its origin is free, else shared (R96). -/
def Channel.slotFor (x : Channel) (pos : Position) : SlotClass :=
  if x.reservedUsed pos < Config.reservedPlaces then .reserved else .shared

/-- An operation put at the tail of a queue (R95). -/
def Channel.enqueue (x : Channel) (action : OpAction) (line : Nat) (origin : Origin) (part : Option Part) : Channel :=
  { x with queue := x.queue ++
      [{ action := action, line := line, origin := origin, part := part, slot := x.slotFor (positionOf origin) }] }

def State.enqueue (s : State) (c : ChannelId) (action : OpAction) (line : Nat) (origin : Origin) (part : Option Part) : State :=
  s.setChannel c ((s.channel c).enqueue action line origin part)

/-! ## Candidates (R77, R98) -/

/-- The candidate that Tracker p presents to channel c's arbiter (R77): the head of its list when it is in
WAIT_CHANNEL; a DUAL entry only at its source channel and only while it heads both of its lists. -/
def trackerCandidate (l : List Entry) (c : ChannelId) : Option Entry :=
  match (admissionList l c).head? with
  | none => none
  | some e =>
    if e.state = .waitChannel then
      match e.resolution with
      | .source _ => some e
      | .dest _ => some e
      | .dual src dst =>
        if src.channel = c ∧ (admissionList l dst.channel).head? = some e then some e else none
    else none

/-- Whether a tracker candidate of port p is eligible at channel c (R98). -/
def State.entryEligible (s : State) (c : ChannelId) (p : PortId) (e : Entry) : Bool :=
  decide ((s.channel c).state = .online) &&
    match e.resolution with
    | .source _ => decide (1 ≤ (s.channel c).usable p.castSucc)
    | .dest _ => decide (1 ≤ (s.channel c).usable p.castSucc)
    | .dual _ dst =>
      if dst.channel = c then decide (2 ≤ (s.channel c).usable p.castSucc)
      else decide (1 ≤ (s.channel c).usable p.castSucc) && decide ((s.channel dst.channel).state = .online) &&
        decide (1 ≤ (s.channel dst.channel).usable p.castSucc)

/-- Whether the Copy Engine's candidate stands and is eligible at channel c (R98, R148). -/
def State.copyEligible (s : State) (c : ChannelId) (x : CopyCandidate) : Bool :=
  decide (x.arbiter = c) && decide ((s.channel c).state = .online) &&
    if x.asPair then
      if x.dst.channel = c then decide (2 ≤ (s.channel c).usable 4)
      else decide (1 ≤ (s.channel c).usable 4) && decide ((s.channel x.dst.channel).state = .online) &&
        decide (1 ≤ (s.channel x.dst.channel).usable 4)
    else decide (1 ≤ (s.channel c).usable 4)

/-- The port at a position, `none` at the Copy Engine's. -/
def positionPort (pos : Position) : Option PortId := if h : pos.val < 4 then some ⟨pos.val, h⟩ else none

/-- Whether the candidate at a position of channel c's arbiter is eligible (R98). -/
def State.eligibleAt (s : State) (c : ChannelId) (pos : Position) : Bool :=
  match positionPort pos with
  | some p =>
    match trackerCandidate (s.tracker p) c with
    | none => false
    | some e => s.entryEligible c p e
  | none =>
    match s.copyCandidate with
    | none => false
    | some x => s.copyEligible c x

/-- The positions in cyclic order, starting after the last winner (R100). -/
def scanOrder (last : Position) : List Position := [last + 1, last + 2, last + 3, last + 4, last]

/-- The position channel c's arbiter grants next: the first eligible one of the scan (R100). -/
def State.nextGrant (s : State) (c : ChannelId) : Option Position :=
  (scanOrder (s.channel c).lastWinner).find? (s.eligibleAt c)

/-- The winner becomes the last winner (R100). -/
def State.setWinner (s : State) (c : ChannelId) (pos : Position) : State :=
  s.setChannel c { s.channel c with lastWinner := pos }

/-! ## Admission (R78, R150) -/

/-- The operation of an entry (R78). -/
def Entry.action (e : Entry) : OpAction :=
  match e.kind with
  | .read => .read
  | .write => if e.mask = BitVec.allOnes 64 then .writeFull e.lineData else .writePartial e.mask e.lineData

/-- The entry's operations in the work queues (R78): one at its target, or a DUAL entry's two together. With both targets
on one channel and one reserved place free the SOURCE part takes it, a choice that R96 leaves open (log 41). -/
def State.enqueueEntry (s : State) (p : PortId) (e : Entry) : State :=
  match e.resolution with
  | .source t => s.enqueue t.channel e.action t.line (.port p e.opTag) none
  | .dest t => s.enqueue t.channel e.action t.line (.port p e.opTag) none
  | .dual src dst =>
    (s.enqueue src.channel e.action src.line (.port p e.opTag) (some .source)).enqueue
      dst.channel e.action dst.line (.port p e.opTag) (some .destination)

/-- The grant of a tracker candidate (R78). -/
def State.admitEntry (s : State) (c : ChannelId) (p : PortId) (e : Entry) : State :=
  ((s.setTracker p (updateEntry (s.tracker p) e.kind e.opTag
      (fun x => { x with state := .atChannel, timer := none, sourcePart := none, destPart := false }))).enqueueEntry p e).setWinner
    c p.castSucc

/-- The pair record of a granted candidate (R150). -/
def CopyCandidate.pairRecord (x : CopyCandidate) (n : PairNumber) : PairRecord :=
  { number := n, line := x.relocation.cursor, dst := x.dst,
    form := if x.asPair then .pair x.src .outstanding else .poisonWrite,
    writePart := if x.asPair then .placeholder else .supplied }

/-- The relocation record after the grant (R150): the pair in flight, the cursor past the line, a poison write
counted. -/
def CopyCandidate.afterGrant (x : CopyCandidate) (n : PairNumber) : Relocation :=
  { x.relocation with
      pairs := x.relocation.pairs ++ [x.pairRecord n], cursor := x.relocation.cursor + 1,
      poisonedLines := x.relocation.poisonedLines + (if x.asPair then 0 else 1) }

/-- The grant of the Copy Engine's candidate (R150). With both operations on one channel and one reserved place free the
COPY_READ takes it, a choice that R96 leaves open (log 41). -/
def State.admitPair (s : State) (c : ChannelId) (x : CopyCandidate) (n : PairNumber) : State :=
  let t := { s with copyEngine := .running (x.afterGrant n) }
  let u :=
    if x.asPair then
      (t.enqueue x.src.channel .copyRead x.src.line (.copy n) none).enqueue
        x.dst.channel (.copyWrite none) x.dst.line (.copy n) none
    else t.enqueue x.dst.channel (.copyWrite (some .poison)) x.dst.line (.copy n) none
  u.setWinner c 4

/-! ## Performed operations (R97, R106) -/

/-- The first operation of a queue with a property that can be performed now: the channel ONLINE, every earlier
operation on its line ended, and a COPY_WRITE supplied (R97). -/
def findPerformable (f : Operation → Bool) (earlier : List Operation) : List Operation → Option Operation
  | [] => none
  | op :: rest =>
    if f op then (if inProgress earlier op then some op else none) else findPerformable f (earlier ++ [op]) rest

/-- The operation with a property that channel c can complete now. -/
def Channel.completable (x : Channel) (f : Operation → Bool) : Option Operation :=
  if x.state = .online then findPerformable f [] x.queue else none

/-- A queue without the first operation with a property: it frees its place (R106). -/
def Channel.remove (x : Channel) (f : Operation → Bool) : Channel := { x with queue := x.queue.eraseP f }

/-- A READ of an entry: matched by tag together with the operation (R95 note). -/
def Operation.isRead (p : PortId) (tag : Byte) (o : Operation) : Bool :=
  decide (o.origin = .port p tag) && decide (o.action = .read)

/-- A WRITE_FULL or WRITE_PARTIAL of an entry with its part (R95). -/
def Operation.isWrite (p : PortId) (tag : Byte) (part : Option Part) (o : Operation) : Bool :=
  decide (o.origin = .port p tag) && decide (o.part = part) &&
    match o.action with
    | .writeFull _ => true
    | .writePartial _ _ => true
    | _ => false

/-- The COPY_READ of a pair. -/
def Operation.isCopyRead (n : PairNumber) (o : Operation) : Bool :=
  decide (o.origin = .copy n) && decide (o.action = .copyRead)

/-- The COPY_WRITE of a pair. -/
def Operation.isCopyWrite (n : PairNumber) (o : Operation) : Bool :=
  decide (o.origin = .copy n) &&
    match o.action with
    | .copyWrite _ => true
    | _ => false

/-- What a read by READ, COPY_READ or WRITE_PARTIAL does to a channel's counts and record (R102, R104, R110, R111). -/
def State.countOutcome (s : State) (c : ChannelId) (e : EccOutcome) (line : Nat) (origin : Position) : State :=
  match e with
  | .corrected => s.setChannel c (s.channel c).countCorrected
  | .uncorrectable =>
    s.setChannel c ((s.channel c).recordError (.uncorrectable line (s.layout.segmentOfLine c line) origin))
  | _ => s

end Sys2Proof.Machine
end

