-- ==== Sys2Proof/Machine/ChannelFault.lean ====
section
/-! DEFINITION. Aborting a work queue and a channel's entry to FAULTED (R107, R108), and the end of a held
CHANNEL_ONLINE (R176). -/

namespace Sys2Proof.Machine

/-- Every operation of a work queue aborted in one step and reported to its origin (R107); the lines of operations in
progress hold old or new contents. -/
def State.abortQueue (s : State) (c : ChannelId) : State :=
  let x := s.channel c
  let t := { s.setChannel c { x with queue := [], memory := x.memory.cut s.fresh [] x.queue } with
    fresh := s.fresh + x.queue.length }
  (t.applyFatesAll (Entry.onOperationAbort c)).copyOnAbort c

/-- The response of the CHANNEL_ONLINE whose detection was in progress, when its path still waits for it (R175, R176). -/
def State.answerDetection (s : State) (requester : Option MgmtPath) (st : MgmtStatus) (data : List Byte) : State :=
  match requester with
  | none => s
  | some path => s.respond path { kind := Req.channelOnline, status := st, data := data }

/-- The reports of an entry to FAULTED (R108): to every tracker, to the Copy Engine, to every Notice Queue, and to the
channel's own first error record. -/
def State.reportFault (s : State) (c : ChannelId) : State :=
  let t := (s.applyFatesAll (Entry.onFaultWaiting c)).copyOnFaultReport c
  let u := t.offerNotices (allPorts.map (fun p => (p, NoticeBody.channelLost c)))
  u.setChannel c ((u.channel c).recordError .fault)

/-- Entry to FAULTED (R107, R108). -/
def State.enterFaulted (s : State) (c : ChannelId) : State :=
  ((s.setChannel c { s.channel c with state := .faulted }).abortQueue c).reportFault c

/-- A channel made OFFLINE: slots empty, capacity 0, contents no longer defined (R94, R112, R113). -/
def Channel.goOffline (x : Channel) : Channel :=
  { x with state := .offline, slots := Vector.replicate 4 none, queue := [], memory := .undefinedContents }

end Sys2Proof.Machine
end

