-- ==== Sys2Proof/Machine/Codes.lean ====
section
/-! DEFINITION. The codes of Chapter 10 (Tables 70 to 74), the completion record layout (Tables 71 and 72), the packets
the bridge sends (Tables 65 and 66) and the I2C response frame (R197). -/

namespace Sys2Proof.Machine

/-! ## Codes (Tables 70, 73, 74) -/

def ReadStatus.code : ReadStatus → Byte
  | .ok => 0x00
  | .corrected => 0x01
  | .poisoned => 0x02

def WriteStatus.code : WriteStatus → Byte
  | .done => 0x00
  | .linePoisoned => 0x01

def AbortReason.code : AbortReason → Byte
  | .notOpen => 0x01
  | .malformed => 0x02
  | .overrun => 0x03
  | .tagInUse => 0x04
  | .outOfWindow => 0x05
  | .unmapped => 0x06
  | .noRight => 0x07
  | .moving => 0x08
  | .channelDown => 0x09
  | .dataTimeout => 0x0A
  | .forced => 0x0B

def MgmtStatus.code : MgmtStatus → Byte
  | .ok => 0x00
  | .notHolder => 0x01
  | .notEligible => 0x02
  | .held => 0x03
  | .busy => 0x04
  | .queueFull => 0x05
  | .wrongState => 0x06
  | .notFound => 0x07
  | .tooLate => 0x08
  | .badRequest => 0x09
  | .refused _ => 0x0A

def RefusedReason.code : RefusedReason → Byte
  | .noRanges => 0x01
  | .limitOrder => 0x02
  | .oddLength => 0x03
  | .channelNotOnline => 0x04
  | .capacity => 0x05
  | .extentsInUse => 0x06
  | .moduleFault => 0x07
  | .noModules => 0x08
  | .channelInUse => 0x09
  | .belowGrant => 0x0A

/-- The refusal reason byte of a response, 00h unless REFUSED (Table 66). -/
def MgmtStatus.reasonCode : MgmtStatus → Byte
  | .refused r => r.code
  | _ => 0x00

def ConfigReason.code : ConfigReason → Byte
  | .state => 0x01
  | .value => 0x02
  | .sequence => 0x03
  | .retiring => 0x04
  | .readOnly => 0x05
  | .noWord => 0x06

def PortErrorKind.code : PortErrorKind → Byte
  | .malformed => 0x01
  | .overrun => 0x02
  | .tagInUse => 0x03
  | .badAck => 0x04

def NoticeBody.code : NoticeBody → Byte
  | .mapped _ _ _ _ _ => 0x01
  | .pendingRevoke _ _ _ => 0x02
  | .pendingDowngrade _ _ _ => 0x03
  | .revoked _ _ _ => 0x04
  | .downgraded _ _ _ => 0x05
  | .upgraded _ _ _ => 0x06
  | .restored _ _ _ => 0x07
  | .channelLost _ => 0x08
  | .roleLost => 0x09
  | .completionPosted _ _ => 0x0A

def RecordKind.code : RecordKind → Byte
  | .create => 0x01
  | .retire => 0x02
  | .map => 0x03
  | .setShare => 0x04
  | .setWindow => 0x05
  | .setRights => 0x06
  | .unmap => 0x07
  | .transfer => 0x08
  | .relocate => 0x09
  | .relocationEnd => 0x0A

def RecordOutcome.code : RecordOutcome → Byte
  | .doneImmediate => 0x01
  | .doneHandover _ => 0x01
  | .accepted => 0x02
  | .rejected _ => 0x03
  | .confirmTimeout => 0x04
  | .drainTimeout _ => 0x05
  | .cancelled _ => 0x06
  | .forcedDone _ _ => 0x07
  | .relocationDone _ _ => 0x08
  | .relocationAbandoned _ => 0x09

def RejectReason.code : RejectReason → Byte
  | .extentState => 0x01
  | .range => 0x02
  | .overlapPool => 0x03
  | .overlapWindow => 0x04
  | .windowSize => 0x05
  | .shareRule => 0x06
  | .notMapped => 0x07
  | .alreadyMapped => 0x08
  | .poolOffline => 0x09
  | .engineBusy => 0x0A
  | .extentBusy => 0x0B
  | .channelDown => 0x0C
  | .portOpen => 0x0D

def Confirmation.code : Confirmation → Byte
  | .notRequested => 0x01
  | .portNotOpen => 0x02
  | .acknowledged => 0x03
  | .confirmedByLoss => 0x04

def CancelStage.code : CancelStage → Byte
  | .queued => 0x01
  | .confirm => 0x02
  | .drain => 0x03

def AbandonReason.code : AbandonReason → Byte
  | .requested => 0x01
  | .destFault => 0x02

def PortState.code : PortState → Byte
  | .disabled => 0x00
  | .down => 0x01
  | .training => 0x02
  | .awaitOpen => 0x03
  | .opened => 0x04
  | .closing => 0x05
  | .failed => 0x06

def Extent.code : Extent → Byte
  | .free => 0x00
  | .active _ => 0x01
  | .changing _ _ => 0x02
  | .relocating _ => 0x03

def Pool.code : Pool → Byte
  | .offline => 0x00
  | .online _ _ _ => 0x01

def RangeMode.code : RangeMode → Byte
  | .ch0 => 0x00
  | .ch1 => 0x01
  | .both => 0x02

def ChannelState.code : ChannelState → Byte
  | .offline => 0x00
  | .detecting _ _ => 0x01
  | .filling => 0x01
  | .online => 0x02
  | .faulted => 0x03

/-- Initialisation stage, of an INITIALISING channel. -/
def ChannelState.stageCode : ChannelState → Option Byte
  | .detecting _ _ => some 0x00
  | .filling => some 0x01
  | _ => none

def FillKind.code : FillKind → Byte
  | .zero => 0x00
  | .poison => 0x01

def FirstError.code : FirstError → Byte
  | .uncorrectable _ _ _ => 0x01
  | .fault => 0x02

def Rights.code : Rights → Byte
  | .read => 0x01
  | .readWrite => 0x02

def ShareMode.code : ShareMode → Byte
  | .exclusive => 0x01
  | .shared => 0x02

/-- A port, channel, position or extent as the number it is. -/
def finByte {n : Nat} (x : Fin n) : Byte := BitVec.ofNat 8 x.val

def Holder.code : Holder → Byte
  | .port p => finByte p
  | .i2c => 0x04
  | .none => 0x05

/-- Submitter of a change. -/
def submitterCode : MgmtPath → Byte
  | .inBand p => finByte p
  | .i2c => 0x04

def HandoverPhase.code : HandoverPhase → Byte
  | .confirm => 0x01
  | .drain => 0x02

def CopyEngine.code : CopyEngine → Byte
  | .idle => 0x00
  | .running _ => 0x01
  | .ending _ => 0x02

def CopyPhaseName.code : CopyPhaseName → Byte
  | .copying => 0x00
  | .finishing => 0x01
  | .abandoning => 0x02

def CopyPhase.name : CopyPhase → CopyPhaseName
  | .copying => .copying
  | .finishing => .finishing
  | .abandoning _ => .abandoning

def ResetCause.code : ResetCause → Byte
  | .powerOn => 0x00
  | .resetPin => 0x01
  | .resetRequest => 0x02

/-! ## Completion records (Tables 71, 72) -/

/-- Detail code of an outcome (Table 72). -/
def RecordOutcome.detailCode : RecordOutcome → Byte
  | .doneHandover c => c.code
  | .forcedDone c _ => c.code
  | .rejected r => r.code
  | .cancelled st => st.code
  | .relocationDone _ destFault => if destFault then 0x02 else 0x00
  | .relocationAbandoned r => r.code
  | .doneImmediate => 0x00
  | .accepted => 0x00
  | .confirmTimeout => 0x00
  | .drainTimeout _ => 0x00

/-- Detail count of an outcome (Table 72). -/
def RecordOutcome.detailCount : RecordOutcome → Nat
  | .forcedDone _ aborted => aborted
  | .drainTimeout n => n
  | .relocationDone poisoned _ => poisoned
  | _ => 0

/-- A completion record as encoded, 15 bytes (Table 71). -/
def CompletionRecord.encode (r : CompletionRecord) : List Byte :=
  le 2 r.changeId ++
  [r.kind.code, (r.extent.map finByte).getD 0xFF, (r.port.map finByte).getD 0xFF,
   (r.submitter.map submitterCode).getD 0xFF, r.outcome.code, r.outcome.detailCode] ++
  le 4 r.outcome.detailCount ++
  [flagByte r.generationAfter.isSome] ++
  le 2 (r.generationAfter.getD 0).toNat

/-! ## Notices (Table 66) -/

def NoticeBody.extent? : NoticeBody → Option ExtentId
  | .mapped x _ _ _ _ => some x
  | .upgraded x _ _ => some x
  | .pendingRevoke x _ _ => some x
  | .pendingDowngrade x _ _ => some x
  | .revoked x _ _ => some x
  | .downgraded x _ _ => some x
  | .restored x _ _ => some x
  | .channelLost _ => none
  | .roleLost => none
  | .completionPosted _ x => x

def NoticeBody.changeId? : NoticeBody → Option Nat
  | .mapped _ id _ _ _ => some id
  | .upgraded _ id _ => some id
  | .pendingRevoke _ id _ => some id
  | .pendingDowngrade _ id _ => some id
  | .revoked _ id _ => some id
  | .downgraded _ id _ => some id
  | .restored _ id _ => some id
  | .channelLost _ => none
  | .roleLost => none
  | .completionPosted id _ => id

def NoticeBody.generation? : NoticeBody → Option Generation
  | .mapped _ _ g _ _ => some g
  | .upgraded _ _ g => some g
  | .pendingRevoke _ _ g => some g
  | .pendingDowngrade _ _ g => some g
  | .revoked _ _ g => some g
  | .downgraded _ _ g => some g
  | .restored _ _ g => some g
  | _ => none

def NoticeBody.windowBase? : NoticeBody → Option Nat
  | .mapped _ _ _ wb _ => some wb
  | _ => none

/-- Rights of a notice: those of the mapping, READ_WRITE of an upgrade, READ of a downgrade (Table 57). -/
def NoticeBody.rights? : NoticeBody → Option Rights
  | .mapped _ _ _ _ r => some r
  | .upgraded _ _ _ => some .readWrite
  | .pendingDowngrade _ _ _ => some .read
  | .downgraded _ _ _ => some .read
  | _ => none

def NoticeBody.channel? : NoticeBody → Option ChannelId
  | .channelLost c => some c
  | _ => none

/-- The presence bits of a notice packet (Table 66). -/
def Notice.presence (n : Notice) : Nat :=
  (if n.body.extent?.isSome then 1 else 0) + (if n.body.changeId?.isSome then 2 else 0) +
  (if n.body.generation?.isSome then 4 else 0) + (if n.body.windowBase?.isSome then 8 else 0) +
  (if n.body.rights?.isSome then 16 else 0) + (if n.body.channel?.isSome then 32 else 0) +
  (if n.lostBefore = 0 then 0 else 64)

/-- The body of a NOTICE packet, absent fields as zeros (Table 66, R192). -/
def Notice.encode (n : Notice) : List Byte :=
  [n.sequence, n.body.code] ++ le 2 n.presence ++
  [(n.body.extent?.map finByte).getD 0] ++ le 2 (n.body.changeId?.getD 0) ++
  le 2 (n.body.generation?.getD 0).toNat ++ le 2 (n.body.windowBase?.getD 0) ++
  [(n.body.rights?.map Rights.code).getD 0, (n.body.channel?.map finByte).getD 0, BitVec.ofNat 8 n.lostBefore]

/-! ## Packets and frames -/

/-- The fields of a management response after the ready marker (R197, Table 66). -/
def MgmtResponse.encode (r : MgmtResponse) : List Byte :=
  [r.kind, r.status.code, r.status.reasonCode, BitVec.ofNat 8 r.data.length] ++ r.data

/-- Kind code of a packet the bridge sends (Table 65). -/
def OutPacket.code : OutPacket → Byte
  | .rdReturn _ _ _ _ => 0x81
  | .rdAbort _ _ _ => 0x82
  | .wrAck _ _ _ => 0x83
  | .wrAbort _ _ _ => 0x84
  | .notice _ => 0x85
  | .mgmtResponse _ => 0x86
  | .configData _ _ => 0x87
  | .configDone _ => 0x88
  | .configRefused _ _ => 0x89

/-- The generation field of an abort with its presence flag (Table 66). -/
def abortTail (g : Option Generation) : List Byte := flagByte g.isSome :: le 2 (g.getD 0).toNat

/-- Body of a packet the bridge sends (Table 66). -/
def OutPacket.body : OutPacket → List Byte
  | .rdReturn tag st g d => [tag, st.code] ++ le 2 g.toNat ++ le 64 d.toNat
  | .rdAbort tag reason g => [tag, reason.code] ++ abortTail g
  | .wrAck tag st g => [tag, st.code] ++ le 2 g.toNat
  | .wrAbort tag reason g => [tag, reason.code] ++ abortTail g
  | .notice n => n.encode
  | .mgmtResponse r => r.encode
  | .configData word v => word :: le 8 v.toNat
  | .configDone word => [word]
  | .configRefused word reason => [word, reason.code]

/-- A packet as sent: kind, body length, body and CRC (R193). -/
def OutPacket.frame (x : OutPacket) : List Byte :=
  let covered := x.code :: BitVec.ofNat 8 x.body.length :: x.body
  covered ++ le 4 (crc32 covered).toNat

/-- The 7-bit address at which the I2C target answers: 58h + ADDR[1:0] as sampled (R174). -/
def State.i2cAddress (s : State) : BitVec 7 := 0x58#7 + s.straps.addr.zeroExtend 7

/-- The response frame that the I2C buffer gives: the ready marker, and in READY the response and its check byte
(R174, R197). -/
def I2cBuffer.readFrame : I2cBuffer → List Byte
  | .empty => [0x00]
  | .inProgress _ => [0x01]
  | .ready r => 0x02 :: (r.encode ++ [crc8 r.encode])

/-- Whether the I2C target acknowledges a transaction to an address: its own, while the bridge runs. During a bridge
reset it acknowledges nothing (R174, R189), and nothing without power (log 9). -/
def State.i2cAnswers (s : State) (address : BitVec 7) : Bool :=
  decide (s.power = .running) && decide (address = s.i2cAddress)

/-- Byte `i` of a read transaction to an address: the frame's, and FFh past its end, so after a marker of 00h or 01h too
(R197); `none` when the transaction is not acknowledged. -/
def State.i2cRead (s : State) (address : BitVec 7) (i : Nat) : Option Byte :=
  if s.i2cAnswers address then some (s.i2c.readFrame.getD i 0xFF) else none

/-- Whether the I2C target takes the frame of a write transaction to an address: its own, unless the buffer is
IN_PROGRESS (R174). -/
def State.i2cTakesWrite (s : State) (address : BitVec 7) : Bool :=
  s.i2cAnswers address && decide (s.reception .i2c = .taken)

end Sys2Proof.Machine
end

