-- ==== Sys2Proof/Machine/Channels.lean ====
section
/-! DEFINITION. Commands of the memory channels: admissions, completions, detection, the fill and faults (Chapters 4, 5
and 7). -/

namespace Sys2Proof.Machine

/-! ## Admissions -/

/-- ADMISSION (R78, R100): channel c's arbiter grants, when its scan meets a tracker candidate first. -/
def execAdmission (c : ChannelId) (s : State) : Host.Outcome State Fault Refusal :=
  .next (s.whenRunning fun s =>
    match (s.nextGrant c).bind positionPort with
    | none => s
    | some p =>
      match trackerCandidate (s.tracker p) c with
      | none => s
      | some e => s.admitEntry c p e)

/-- COPY_PAIR_ADMISSION (R150): channel c's arbiter grants, when its scan meets the Copy Engine's candidate first. -/
def execCopyPairAdmission (c : ChannelId) (s : State) : Host.Outcome State Fault Refusal :=
  .next (s.whenRunning fun s =>
    if s.nextGrant c = some 4 then
      match s.copyCandidate with
      | none => s
      | some x =>
        match freePairNumber x.relocation.pairs with
        | none => s
        | some n => s.admitPair c x n
    else s)

/-! ## Completions -/

/-- RD_RETURN of a read entry (R80). -/
def Entry.returned (e : Entry) (outcome : EccOutcome) (data : LineData) : OutPacket :=
  match outcome with
  | .clean => .rdReturn e.opTag .ok e.generation data
  | .corrected => .rdReturn e.opTag .corrected e.generation data
  | .uncorrectable | .poisoned => .rdReturn e.opTag .poisoned e.generation 0

/-- What the completion of a READ makes of an entry (R80, R88). -/
def Entry.onReadDone (tag : Byte) (outcome : EccOutcome) (data : LineData) (e : Entry) : Fate :=
  if e.is .read tag && !e.waiting then e.leaveWith (e.returned outcome data) else .keep e

/-- READ_COMPLETE (R80, R102, R106): the operation leaves the queue, its line is rewritten where it was bad, and the
entry is answered. -/
def execReadComplete (c : ChannelId) (p : PortId) (tag : Byte) (media : MediaResult) (s : State) :
    Host.Outcome State Fault Refusal :=
  .next (s.whenRunning fun s =>
    let x := s.channel c
    match x.completable (Operation.isRead p tag) with
    | none => s
    | some op =>
      let content := x.memory.read op.line
      let e := eccOutcome content media
      let t := s.setChannel c { x.remove (Operation.isRead p tag) with memory := x.memory.afterRead op.line e }
      (t.countOutcome c e op.line p.castSucc).applyFates p (Entry.onReadDone tag e (contentData op.line content)))

/-- WR_ACK of a write entry that is not DUAL (R81). -/
def Entry.acked (e : Entry) (st : WriteStatus) : OutPacket := .wrAck e.opTag st e.generation

/-- The source outcome that a write outcome records (R82). -/
def WriteStatus.partOutcome : WriteStatus → PartOutcome
  | .done => .done
  | .linePoisoned => .linePoisoned

/-- What the completion of a write makes of an entry (R81, R82, R88). -/
def Entry.onWriteDone (tag : Byte) (part : Option Part) (st : WriteStatus) (e : Entry) : Fate :=
  if e.is .write tag && !e.waiting then
    match part with
    | none => e.leaveWith (e.acked st)
    | some .source => Entry.dualFate { e with sourcePart := some st.partOutcome }
    | some .destination => Entry.dualFate { e with destPart := true }
  else .keep e

/-- The write outcome of an ECC outcome met by a WRITE_PARTIAL (R104). -/
def partialStatus : EccOutcome → WriteStatus
  | .clean | .corrected => .done
  | .uncorrectable | .poisoned => .linePoisoned

/-- A write performed on its line: the contents after it, the ECC outcome of its read, and the write outcome (R103,
R104). A WRITE_FULL reads nothing. -/
def Memory.performWrite (m : Memory) (line : Nat) (media : MediaResult) : OpAction → Memory × EccOutcome × WriteStatus
  | .writeFull d => (m.write line (.data d), .clean, .done)
  | .writePartial mask d =>
    let e := eccOutcome (m.read line) media
    (m.afterPartial line mask d e, e, partialStatus e)
  | _ => (m, .clean, .done)

/-- WRITE_COMPLETE (R81, R82, R103, R104, R106). -/
def execWriteComplete (c : ChannelId) (p : PortId) (tag : Byte) (part : Option Part) (media : MediaResult) (s : State) :
    Host.Outcome State Fault Refusal :=
  .next (s.whenRunning fun s =>
    let x := s.channel c
    match x.completable (Operation.isWrite p tag part) with
    | none => s
    | some op =>
      let (m, e, st) := x.memory.performWrite op.line media op.action
      let t := s.setChannel c { x.remove (Operation.isWrite p tag part) with memory := m }
      (t.countOutcome c e op.line p.castSucc).applyFates p (Entry.onWriteDone tag part st))

/-- The content a COPY_READ supplies to its placeholder (R105, R151). -/
def suppliedContent (line : Nat) (content : LineContent) : EccOutcome → LineContent
  | .clean | .corrected => .data (contentData line content)
  | .uncorrectable | .poisoned => .poison

/-- A pair after its COPY_READ completed (R151): COMPLETED, and SUPPLIED when the placeholder still stood. -/
def PairRecord.onReadDone (x : PairRecord) : PairRecord :=
  { x with
      form := match x.form with
        | .pair src _ => .pair src .completed
        | .poisonWrite => .poisonWrite
      writePart := if x.writePart = .placeholder then .supplied else x.writePart }

/-- The relocation record after a COPY_READ completed (R151): a poison marker supplied adds 1 to the count. -/
def Relocation.onReadDone (r : Relocation) (n : PairNumber) (content : LineContent) : Relocation :=
  let supplied := r.pairs.any (fun x => decide (x.number = n) && decide (x.writePart = .placeholder))
  { r.updatePair n PairRecord.onReadDone with
      poisonedLines := r.poisonedLines + (if supplied ∧ content = .poison then 1 else 0) }

/-- The Copy Engine's part of a COPY_READ completion: the pair's record, and the placeholder supplied. -/
def State.copyReadDone (s : State) (n : PairNumber) (content : LineContent) : State :=
  match s.copyEngine with
  | .running r =>
    match r.pairs.find? (fun x => decide (x.number = n)) with
    | none => s
    | some x => ({ s with copyEngine := .running (r.onReadDone n content) }).supply x.dst.channel n content
  | _ => s

/-- COPY_READ_COMPLETE (R102, R106, R151). -/
def execCopyReadComplete (c : ChannelId) (pair : PairNumber) (media : MediaResult) (s : State) :
    Host.Outcome State Fault Refusal :=
  .next (s.whenRunning fun s =>
    let x := s.channel c
    match x.completable (Operation.isCopyRead pair) with
    | none => s
    | some op =>
      let content := x.memory.read op.line
      let e := eccOutcome content media
      let t := s.setChannel c { x.remove (Operation.isCopyRead pair) with memory := x.memory.afterRead op.line e }
      (t.countOutcome c e op.line 4).copyReadDone pair (suppliedContent op.line content e))

/-- The Copy Engine's part of a COPY_WRITE completion (R152, R154). -/
def State.copyWriteDone (s : State) (n : PairNumber) : State :=
  match s.copyEngine with
  | .running r =>
    ({ s with copyEngine := .running (r.updatePair n (fun x => { x with writePart := .done })) }).finishIfCopied
  | _ => s

/-- COPY_WRITE_COMPLETE (R105, R106, R152). -/
def execCopyWriteComplete (c : ChannelId) (pair : PairNumber) (s : State) : Host.Outcome State Fault Refusal :=
  .next (s.whenRunning fun s =>
    let x := s.channel c
    match x.completable (Operation.isCopyWrite pair) with
    | none => s
    | some op =>
      match op.action with
      | .copyWrite (some content) =>
        let t := s.setChannel c { x.remove (Operation.isCopyWrite pair) with memory := x.memory.write op.line content }
        t.copyWriteDone pair
      | _ => s)

/-! ## Detection and fill (R92, R93) -/

/-- What a slot reports when detection may succeed: empty, or a size of the four; `none` is a module fault. -/
def slotSize : SlotReport → Option (Option Nat)
  | .noAnswer => none
  | .empty => some none
  | .module n => if n = 16 ∨ n = 32 ∨ n = 64 ∨ n = 128 then some (some n) else none

/-- The slots as detected; `none` when a slot does not answer or reports another size (R92, outcome 1). -/
def detectedSlots (a b c d : SlotReport) : Option (Vector (Option Nat) 4) :=
  match slotSize a, slotSize b, slotSize c, slotSize d with
  | some w, some x, some y, some z => some #v[w, x, y, z]
  | _, _, _, _ => none

/-- Capacity of detected slots. -/
def slotCapacity (slots : Vector (Option Nat) 4) : Nat := (slots.toList.map (fun sl => sl.getD 0)).sum

/-- The fill kind chosen when detection succeeds (R93). -/
def State.fillKindFor (s : State) (c : ChannelId) : FillKind := if s.layout.uses c then .poison else .zero

/-- The state a channel returns to when detection finds nothing to use (R92). -/
def returnState (fromFaulted : Bool) : ChannelState := if fromFaulted then .faulted else .offline

/-- The end of a detection (R92). After a module fault the aborts and CHANNEL_LOST are handed to the requester's port
before the response, an order that R51 and R169 leave open (log 15). -/
def State.endDetection (s : State) (c : ChannelId) (fromFaulted : Bool) (requester : Option MgmtPath)
    (found : Option (Vector (Option Nat) 4)) : State :=
  match found with
  | none => (s.enterFaulted c).answerDetection requester (.refused .moduleFault) []
  | some slots =>
    if slotCapacity slots = 0 then
      (s.setChannel c { s.channel c with state := returnState fromFaulted }).answerDetection requester
        (.refused .noModules) []
    else if slotCapacity slots < s.layout.consumption c then
      (s.setChannel c { s.channel c with state := returnState fromFaulted }).answerDetection requester
        (.refused .capacity) (le 2 (slotCapacity slots))
    else
      (s.setChannel c { s.channel c with state := .filling, slots := slots, fillKind := s.fillKindFor c }).answerDetection
        requester .ok (le 2 (slotCapacity slots) ++ [(s.fillKindFor c).code])

/-- DETECTION_END (R92): each slot reports, and the held CHANNEL_ONLINE is answered. -/
def execDetectionEnd (c : ChannelId) (slot0 slot1 slot2 slot3 : SlotReport) (s : State) :
    Host.Outcome State Fault Refusal :=
  .next (s.whenRunning fun s =>
    match (s.channel c).state with
    | .detecting ff req => s.endDetection c ff req (detectedSlots slot0 slot1 slot2 slot3)
    | _ => s)

/-- FILL_END (R93): every line holds the fill, and the channel enters ONLINE. -/
def execFillEnd (c : ChannelId) (s : State) : Host.Outcome State Fault Refusal :=
  .next (s.whenRunning fun s =>
    if (s.channel c).state = .filling then
      s.setChannel c { s.channel c with state := .online, memory := Memory.filled (s.channel c).fillKind }
    else s)

/-! ## Faults -/

/-- A fault event while the bridge runs (R107): FAULTED from INITIALISING and ONLINE, a detection answered
MODULE_FAULT; ignored in OFFLINE and FAULTED. CHANNEL_LOST is handed to the requester's port before the answer, an order
that R51 and R169 leave open (log 15). -/
def State.faultEvent (s : State) (c : ChannelId) : State :=
  match (s.channel c).state with
  | .offline | .faulted => s
  | .filling | .online => s.enterFaulted c
  | .detecting _ req => (s.enterFaulted c).answerDetection req (.refused .moduleFault) []

/-- A fault event during a bridge reset (R113): noted for a retained channel until the reset ends. A second one in the
same retention is noted no further, since the channel then stands as one that has faulted (log 38). -/
def State.faultInRetention (s : State) (c : ChannelId) : State :=
  if (s.channel c).state = .online then s.setChannel c { s.channel c with retentionFault := true } else s

/-- CHANNEL_FAULT (R107, R108, R113). -/
def execChannelFault (c : ChannelId) (s : State) : Host.Outcome State Fault Refusal :=
  .next
    (match s.power with
     | .off => s
     | .inReset => s.faultInRetention c
     | .running => s.faultEvent c)

end Sys2Proof.Machine
end

