-- ==== Sys2Proof/Machine/Flags.lean ====
section
/-! DEFINITION. Derived status bits: the alert causes and the ALERT_N pin (R190), and the values of the six
configuration words (R59, R60, R195 Table 67). -/

namespace Sys2Proof.Machine

/-- Cause 1: the completion queue holds a record. -/
def State.alertCompletion (s : State) : Bool := !s.completions.isEmpty

/-- Cause 2: the first error record of a channel is full. -/
def State.alertError (s : State) : Bool := (s.channel 0).firstError.isSome || (s.channel 1).firstError.isSome

/-- Cause 3: the interrupted-operation record is valid. -/
def State.alertInterrupted (s : State) : Bool := s.interrupted.isSome

/-- ALERT_N asserted, driven low (R190). -/
def State.alertAsserted (s : State) : Bool := s.alertCompletion || s.alertError || s.alertInterrupted

/-- The alert causes as one byte (R199). -/
def State.alertByte (s : State) : Byte :=
  BitVec.ofNat 8 ((if s.alertCompletion then 1 else 0) + (if s.alertError then 2 else 0) +
    (if s.alertInterrupted then 4 else 0))

/-! ## Configuration words -/

namespace Word
abbrev offer : Byte := 0x00
abbrev windowAccept : Byte := 0x01
abbrev portOpen : Byte := 0x02
abbrev portClose : Byte := 0x03
abbrev portStatus : Byte := 0x04
abbrev portErrors : Byte := 0x05
end Word

/-- A field of a configuration value: a number placed at a bit (R195). -/
def field (at_ : Nat) (v : Nat) : Nat := v * 2 ^ at_

def flagNat (b : Bool) : Nat := if b then 1 else 0

/-- OFFER (R46). -/
def LinkPort.offerWord (x : LinkPort) : Nat := field 0 x.windowSize + field 16 x.readOffer + field 24 x.writeOffer

/-- WINDOW_ACCEPT (R46). -/
def LinkPort.acceptWord (x : LinkPort) : Nat := field 0 (x.acceptance.getD 0) + field 16 (flagNat x.acceptance.isSome)

/-- PORT_STATUS (R60). -/
def State.statusWord (s : State) (p : PortId) : Nat :=
  let x := s.port p
  let l := s.tracker p
  field 0 p.val + field 4 x.state.code.toNat + field 8 (flagNat x.acceptance.isSome) +
  field 16 x.grantedReads + field 24 x.grantedWrites +
  field 32 (countedOf .read l) + field 40 (countedOf .write l) + field 48 (retiringOf l) +
  field 56 (flagNat (s.eligible.getLsbD p.val)) + field 57 (flagNat (decide (s.holder = .port p)))

/-- PORT_ERRORS (R60). -/
def LinkPort.errorsWord (x : LinkPort) : Nat :=
  field 0 x.crcDrops + field 16 x.protocolErrors + field 24 x.orphanData +
  match x.error with
  | none => 0
  | some e => field 32 1 + field 33 e.kind.code.toNat + field 36 (flagNat e.tag.isSome) + field 40 (e.tag.getD 0).toNat

/-- The value a configuration word reads as; `none` for a word that does not exist (R59). -/
def State.configWord (s : State) (p : PortId) (word : Byte) : Option (BitVec 64) :=
  match word.toNat with
  | 0 => some (BitVec.ofNat 64 (s.port p).offerWord)
  | 1 => some (BitVec.ofNat 64 (s.port p).acceptWord)
  | 2 => some (BitVec.ofNat 64 (s.port p).grantedReads)
  | 3 => some (BitVec.ofNat 64 (flagNat (decide ((s.port p).state = .closing))))
  | 4 => some (BitVec.ofNat 64 (s.statusWord p))
  | 5 => some (BitVec.ofNat 64 (s.port p).errorsWord)
  | _ => none

end Sys2Proof.Machine
end

