-- ==== Sys2Proof/Machine/Intake.lean ====
section
/-! DEFINITION. Intake of READ and WRITE (sections 1.7 and 4.2): the lookup, the MOVING check, target resolution, and the
nine checks in order. -/

namespace Sys2Proof.Machine

/-- Outcomes of a lookup (R11 to R15). -/
inductive Lookup where
  | outOfWindow
  | unmapped
  | noRight
  | found (extent : ExtentId) (generation : Generation) (offset poolAddress : Nat)
  deriving DecidableEq, Repr

/-- Whether the mapping of an extent for port p covers a window segment (R12). -/
def State.covers (s : State) (p : PortId) (seg : Nat) (x : ExtentId) : Bool :=
  match s.mappingOf x p with
  | none => false
  | some m => decide (m.windowBase ≤ seg) && decide (seg < m.windowBase + s.lengthOf x)

/-- The lookup of a node address by port p (R11 to R15). -/
def State.lookup (s : State) (p : PortId) (kind : ReqKind) (a : Nat) : Lookup :=
  let seg := a / Config.segmentBytes
  if (s.port p).windowSize ≤ seg then .outOfWindow
  else match allExtents.find? (s.covers p seg) with
    | none => .unmapped
    | some x =>
      match (s.extent x).body?, s.mappingOf x p with
      | some b, some m =>
        if kind = .write ∧ m.rights = .read then .noRight
        else
          let offset := (seg - m.windowBase) * Config.segmentBytes + a % Config.segmentBytes
          .found x b.generation offset (b.poolBase * Config.segmentBytes + offset)
      | _, _ => .unmapped

/-- The MOVING check (R69): the extent CHANGING under a handover in DRAIN that takes access of this kind from this
port. -/
def State.isMoving (s : State) (p : PortId) (kind : ReqKind) (x : ExtentId) : Bool :=
  match s.extent x, s.active with
  | .changing _ _, some h =>
    decide (h.extent = x) && decide (h.losing = p) && decide (h.phase = .drain) &&
      (!h.writesOnly || decide (kind = .write))
  | _, _ => false

/-- Target resolution (R70, Table 50); `none` when the Decoder finds no range. -/
def State.resolve (s : State) (kind : ReqKind) (x : ExtentId) (offset poolAddress : Nat) : Option Resolution :=
  let src := s.layout.decode poolAddress
  match s.extent x, s.copyEngine with
  | .relocating _, .running r =>
    let dst := s.layout.decode (r.targetBase * Config.segmentBytes + offset)
    match r.phase with
    | .copying =>
      if kind = .write ∧ offset / Config.lineBytes < r.cursor then
        match src, dst with
        | some a, some b => some (.dual a b)
        | _, _ => none
      else src.map .source
    | .finishing => dst.map .dest
    | .abandoning _ => src.map .source
  | _, _ => src.map .source

/-- Whether a channel is ONLINE. -/
def State.isOnline (s : State) (c : ChannelId) : Bool := decide ((s.channel c).state = .online)

/-- The CHANNEL_DOWN check (R71): the resolution an accepted request keeps, `none` when it is refused. -/
def State.channelCheck (s : State) : Resolution → Option Resolution
  | .source t => if s.isOnline t.channel then some (.source t) else none
  | .dest t => if s.isOnline t.channel then some (.dest t) else none
  | .dual a b =>
    if s.isOnline a.channel then (if s.isOnline b.channel then some (.dual a b) else some (.source a)) else none

/-- What intake decides of a request. -/
inductive Intake where
  | refused (reason : AbortReason)
  | accepted (extent : ExtentId) (generation : Generation) (line : Nat) (resolution : Resolution)
  | noRange
  deriving DecidableEq, Repr

/-- Granted credits of a kind. -/
def LinkPort.granted (x : LinkPort) : ReqKind → Nat
  | .read => x.grantedReads
  | .write => x.grantedWrites

/-- Intake checks 2 to 9 in their order (Table 27, R68 to R71). The counted entries of a kind fail OVERRUN when they
are not below the grant (log 28). -/
def State.intake (s : State) (p : PortId) (kind : ReqKind) (tag : Byte) (a : Nat) : Intake :=
  if (s.port p).state ≠ .opened then .refused .notOpen
  else if (s.port p).granted kind ≤ countedOf kind (s.tracker p) then .refused .overrun
  else if (countedEntry (s.tracker p) kind tag).isSome then .refused .tagInUse
  else match s.lookup p kind a with
    | .outOfWindow => .refused .outOfWindow
    | .unmapped => .refused .unmapped
    | .noRight => .refused .noRight
    | .found x g offset poolAddress =>
      if s.isMoving p kind x then .refused .moving
      else match s.resolve kind x offset poolAddress with
        | none => .noRange
        | some r =>
          match s.channelCheck r with
          | none => .refused .channelDown
          | some r' => .accepted x g (offset / Config.lineBytes) r'

/-- The protocol error a refusal counts as (Table 27). -/
def AbortReason.protocolError? : AbortReason → Option PortErrorKind
  | .malformed => some .malformed
  | .overrun => some .overrun
  | .tagInUse => some .tagInUse
  | _ => none

/-- The abort of a request that took no entry: no generation (R66). -/
def refusalOf (kind : ReqKind) (tag : Byte) (reason : AbortReason) : OutPacket :=
  match kind with
  | .read => .rdAbort tag reason none
  | .write => .wrAbort tag reason none

/-- A refusal at intake (R66): the abort, and the protocol error where the reason is one. -/
def State.refuse (s : State) (p : PortId) (kind : ReqKind) (tag : Byte) (reason : AbortReason) : State :=
  let t := match reason.protocolError? with
    | some e => s.protocolError p e (some tag)
    | none => s
  t.send p (refusalOf kind tag reason)

/-- The entry of an accepted request (R72). -/
def State.newEntry (s : State) (kind : ReqKind) (tag : Byte) (x : ExtentId) (g : Generation) (line : Nat)
    (r : Resolution) (mask : ByteMask) : Entry :=
  { kind := kind, opTag := tag, extent := x, generation := g, line := line, resolution := r, mask := mask,
    half0 := none, half1 := none, sourcePart := none, destPart := false,
    state := match kind with
      | .read => .waitChannel
      | .write => .waitData
    timer := match kind with
      | .read => none
      | .write => some s.limits.writeData }

/-- Intake check 1 failed (R67, R194): refused MALFORMED, or discarded when no tag was received. -/
def State.refuseMalformed (s : State) (p : PortId) (kind : ReqKind) (pkt : RawPacket) : State :=
  match readableTag pkt with
  | some tag => s.refuse p kind tag .malformed
  | none => s.protocolError p .malformed none

/-- A READ or WRITE packet that passed the CRC check (R66). `fieldsOk` is check 1, `mask` the byte mask. -/
def State.takeRequestPacket (s : State) (p : PortId) (kind : ReqKind) (pkt : RawPacket) (fieldsOk : Bool)
    (mask : ByteMask) : Host.Outcome State Fault Refusal :=
  if s.power = .running ∧ (s.port p).state.linked = true then
    if fieldsOk then
      match s.intake p kind (packetTag pkt) (packetAddress pkt) with
      | .refused reason => .next (s.refuse p kind (packetTag pkt) reason)
      | .accepted x g line r =>
        .next (s.setTracker p (s.tracker p ++ [s.newEntry kind (packetTag pkt) x g line r mask]))
      | .noRange => .fault .addressOutsidePool
    else .next (s.refuseMalformed p kind pkt)
  else .next s

end Sys2Proof.Machine
end

