-- ==== Sys2Proof/Machine/Packets.lean ====
section
/-! DEFINITION. Commands that packets bring (Chapters 3, 4 and 8). A packet acts while the bridge runs and the port is in
AWAIT_OPEN, OPEN or CLOSING (R49, R50). -/

namespace Sys2Proof.Machine

/-- A packet's effect on a port that receives packets (R50). -/
def State.onPacket (s : State) (p : PortId) (f : State → State) : State :=
  s.whenRunning fun s => if (s.port p).state.linked then f s else s

/-- PACKET_CRC_DROP (R49): a packet with a wrong CRC is dropped and counted. -/
def execPacketCrcDrop (p : PortId) (bytes : List Byte) (s : State) : Host.Outcome State Fault Refusal :=
  .next (s.onPacket p fun s =>
    if crcBad bytes then s.setPort p { s.port p with crcDrops := satIncr 65535 (s.port p).crcDrops } else s)

/-- UNDEFINED_PACKET (R50, R194): discarded and counted as a MALFORMED protocol error without a tag. -/
def execUndefinedPacket (p : PortId) (kind : Byte) (pkt : RawPacket) (s : State) : Host.Outcome State Fault Refusal :=
  .next (s.onPacket p fun s => if undefinedInbound kind pkt then s.protocolError p .malformed none else s)

/-- READ (R66 to R72). -/
def execRead (p : PortId) (pkt : RawPacket) (s : State) : Host.Outcome State Fault Refusal :=
  s.takeRequestPacket p .read pkt (readFieldsOk pkt) 0

/-- WRITE (R66 to R72). -/
def execWrite (p : PortId) (pkt : RawPacket) (s : State) : Host.Outcome State Fault Refusal :=
  s.takeRequestPacket p .write pkt (writeFieldsOk pkt) (packetMask pkt)

/-- Whether a write entry still waits for a half (R74). -/
def Entry.wantsHalf (e : Entry) (half : Byte) : Bool :=
  decide (e.state = .waitData) && (if half = 0 then e.half0.isNone else e.half1.isNone)

/-- A half stored; with both halves the timer stops and the entry moves to WAIT_CHANNEL (R74). -/
def Entry.takeHalf (e : Entry) (half : Byte) (d : HalfData) : Entry :=
  let e' := if half = 0 then { e with half0 := some d } else { e with half1 := some d }
  if e'.half0.isSome && e'.half1.isSome then { e' with state := .waitChannel, timer := none } else e'

/-- A WDATA that passed its field conditions: stored, or orphan data (R74, R75). -/
def State.takeData (s : State) (p : PortId) (tag half : Byte) (d : HalfData) : State :=
  match countedEntry (s.tracker p) .write tag with
  | some e =>
    if e.wantsHalf half then s.setTracker p (updateEntry (s.tracker p) .write tag (fun e => e.takeHalf half d))
    else s.orphan p
  | none => s.orphan p

/-- WDATA (R74, R75, R194). -/
def execWdata (p : PortId) (pkt : RawPacket) (s : State) : Host.Outcome State Fault Refusal :=
  .next (s.onPacket p fun s =>
    if wdataFieldsOk pkt then s.takeData p (packetTag pkt) (packetHalf pkt) (packetHalfData pkt)
    else s.protocolError p .malformed (readableTag pkt))

/-- WRITE_DATA_TIMER_EXPIRY (R76): a write still in WAIT_DATA leaves, answered DATA_TIMEOUT. -/
def execWriteDataTimerExpiry (p : PortId) (tag : Byte) (s : State) : Host.Outcome State Fault Refusal :=
  .next (s.whenRunning fun s => s.applyFates p (Entry.onDataTimeout tag))

/-! ## Acknowledgements (R170) -/

/-- The notices that an acknowledgement removes, oldest first, and those that stay; `none` when the sequence is not in
the list (R170). -/
def ackSplit (sq : BitVec 8) : List Notice → Option (List Notice × List Notice)
  | [] => none
  | n :: rest =>
    if n.sequence = sq then some ([n], rest)
    else match ackSplit sq rest with
      | none => none
      | some (removed, kept) => some (n :: removed, kept)

/-- The change whose PENDING notice a notice is. -/
def NoticeBody.pendingChange? : NoticeBody → Option Nat
  | .pendingRevoke _ id _ => some id
  | .pendingDowngrade _ id _ => some id
  | _ => none

/-- Whether the removed notices confirm a handover: in CONFIRM with its PENDING notice sent and among them (R129). -/
def Handover.confirmedBy (h : Handover) (p : PortId) (removed : List Notice) : Bool :=
  decide (h.phase = .confirm) && decide (h.losing = p) &&
    (match h.pendingNotice with
     | .sent _ => true
     | _ => false) &&
    removed.any (fun n => decide (n.body.pendingChange? = some h.change.id))

/-- What an acknowledgement reports to the Change Engine: the removal of a PENDING notice (R129), and room (R168). -/
def State.reportAck (s : State) (p : PortId) (removed : List Notice) : State :=
  match s.active with
  | none => s
  | some h =>
    if h.confirmedBy p removed then s.enterDrain h .acknowledged
    else if h.phase = .confirm ∧ h.losing = p ∧ h.pendingNotice = .held then
      { s with active := some { h with roomReported := true } }
    else s

/-- NOTICE_ACK (R170, R194). -/
def execNoticeAck (p : PortId) (pkt : RawPacket) (s : State) : Host.Outcome State Fault Refusal :=
  .next (s.onPacket p fun s =>
    if lengthOk pkt 1 then
      match ackSplit (packetTag pkt) (s.noticeQueue p).notices with
      | none => s.protocolError p .badAck (some (packetTag pkt))
      | some (removed, kept) => (s.setNoticeQueue p { s.noticeQueue p with notices := kept }).reportAck p removed
    else s.protocolError p .malformed none)

end Sys2Proof.Machine
end

