-- ==== Sys2Proof/Machine/PortReset.lean ====
section
/-! DEFINITION. A port leaving OPEN and a port reset (R52, R54, R55 Table 21). -/

namespace Sys2Proof.Machine

/-- A CHANNEL_ONLINE in progress from the in-band path of port p: its response is discarded when it is made (R175). -/
def Channel.dropRequester (x : Channel) (p : PortId) : Channel :=
  match x.state with
  | .detecting ff (some (.inBand q)) => if q = p then { x with state := .detecting ff none } else x
  | _ => x

/-- The in-band slot of port p emptied, and the response of a request in progress discarded (R175). -/
def State.clearSlot (s : State) (p : PortId) : State :=
  let t := s.setSlot p none
  let u := t.setChannel 0 ((t.channel 0).dropRequester p)
  u.setChannel 1 ((u.channel 1).dropRequester p)

/-- The effects of a port reset on the blocks that hold state of port p (Table 21). The port has taken its new state:
Link Port, Notice Queue, manager role, in-band slot, Change Engine, then the tracker. A handover that enters DRAIN by
the loss takes its count first, and the discarded entries then leave it. -/
def State.resetPort (s : State) (p : PortId) (target : PortState) (clear : Bool) : State :=
  let x := (s.port p).drop target
  let s1 := s.setPort p (if clear then x.clearCounters else x)
  let s2 := s1.setNoticeQueue p .empty
  let s3 := (s2.freeRole p).clearSlot p
  (s3.confirmByLoss p).applyFates p Entry.onPortReset

/-- What leaving OPEN by PORT_CLOSE does beside the Link Port (R52, R172): the notices removed with the next sequence
kept, the role freed, a handover in CONFIRM confirmed. -/
def State.leaveOpen (s : State) (p : PortId) : State :=
  let s1 := s.setNoticeQueue p { s.noticeQueue p with notices := [], lost := 0 }
  (s1.freeRole p).confirmByLoss p

/-- A close completed (R53): AWAIT_OPEN, credits 0, the acceptance cleared, the bring-up timer not started. -/
def LinkPort.closeDone (x : LinkPort) : LinkPort :=
  { x with state := .awaitOpen, grantedReads := 0, grantedWrites := 0, acceptance := none }

/-- CLOSING with a tracker that holds no entry becomes AWAIT_OPEN (R53). -/
def State.completeClose (s : State) (p : PortId) : State :=
  if (s.port p).state = .closing ∧ s.tracker p = [] then s.setPort p (s.port p).closeDone else s

end Sys2Proof.Machine
end

