-- ==== Sys2Proof/Machine/ConfigWords.lean ====
section
/-! DEFINITION. Commands of the configuration words (sections 3.3, 3.5 and 3.8, R196). -/

namespace Sys2Proof.Machine

/-- A write of WINDOW_ACCEPT on a port that receives packets (R46). -/
def State.writeWindowAccept (s : State) (p : PortId) (value : BitVec 64) : State :=
  if (s.port p).state = .awaitOpen then
    if value.toNat < 2048 ∧ value.toNat = (s.port p).windowSize then
      (s.setPort p { s.port p with acceptance := some (s.port p).windowSize }).send p (.configDone Word.windowAccept)
    else s.send p (.configRefused Word.windowAccept .value)
  else s.send p (.configRefused Word.windowAccept .state)

/-- Link Port n as a PORT_OPEN that passes leaves it (R47). -/
def LinkPort.open (x : LinkPort) (credits : Nat) : LinkPort :=
  { x with state := .opened, bringUpTimer := none, grantedReads := credits, grantedWrites := x.writeOffer }

/-- The first check that a PORT_OPEN fails in AWAIT_OPEN (R47). -/
def State.openRefusal (s : State) (p : PortId) (value : BitVec 64) : Option ConfigReason :=
  if (s.port p).acceptance = none then some .sequence
  else if ¬ (value.toNat < 32 ∧ 1 ≤ value.toNat ∧ value.toNat ≤ (s.port p).readOffer) then some .value
  else if retiringOf (s.tracker p) ≠ 0 then some .retiring
  else none

/-- A write of PORT_OPEN on a port that receives packets (R47). -/
def State.writePortOpen (s : State) (p : PortId) (value : BitVec 64) : State :=
  if (s.port p).state = .awaitOpen then
    match s.openRefusal p value with
    | some reason => s.send p (.configRefused Word.portOpen reason)
    | none => (s.setPort p ((s.port p).open value.toNat)).send p (.configDone Word.portOpen)
  else s.send p (.configRefused Word.portOpen .state)

/-- A write of PORT_CLOSE on a port that receives packets (R52, R53). -/
def State.writePortClose (s : State) (p : PortId) : State :=
  if (s.port p).state = .opened then
    (((s.setPort p { s.port p with state := .closing }).send p (.configDone Word.portClose)).leaveOpen p).completeClose p
  else s.send p (.configRefused Word.portClose .state)

/-- WINDOW_ACCEPT (R46). -/
def execWindowAccept (p : PortId) (value : BitVec 64) (s : State) : Host.Outcome State Fault Refusal :=
  .next (s.onPacket p fun s => s.writeWindowAccept p value)

/-- PORT_OPEN (R47). -/
def execPortOpen (p : PortId) (value : BitVec 64) (s : State) : Host.Outcome State Fault Refusal :=
  .next (s.onPacket p fun s => s.writePortOpen p value)

/-- PORT_CLOSE (R52). The value written is ignored. -/
def execPortClose (p : PortId) (_value : BitVec 64) (s : State) : Host.Outcome State Fault Refusal :=
  .next (s.onPacket p fun s => s.writePortClose p)

/-- The answer to a configuration access in the order of R196. -/
def State.configAccess (s : State) (p : PortId) : ConfigAccess → State
  | .read word =>
    match s.configWord p word with
    | some v => s.send p (.configData word v)
    | none => s.send p (.configRefused word .noWord)
  | .write word value =>
    match word.toNat with
    | 0 | 4 | 5 => s.send p (.configRefused word .readOnly)
    | 1 => s.writeWindowAccept p value
    | 2 => s.writePortOpen p value
    | 3 => s.writePortClose p
    | _ => s.send p (.configRefused word .noWord)

/-- CONFIG_WRITE (R196): a write refused READ_ONLY or NO_WORD, and the reads of the words (log 10). -/
def execConfigWrite (p : PortId) (access : ConfigAccess) (s : State) : Host.Outcome State Fault Refusal :=
  .next (s.onPacket p fun s => s.configAccess p access)

/-- CLOSE_COMPLETE (R53): a CLOSING port whose tracker holds no entry enters AWAIT_OPEN. -/
def execCloseComplete (p : PortId) (s : State) : Host.Outcome State Fault Refusal :=
  .next (s.whenRunning fun s => s.completeClose p)

end Sys2Proof.Machine
end

