-- ==== Sys2Proof/Machine/Reports.lean ====
section
/-! DEFINITION. The data of the read requests (R37, R183 to R186), encoded as R199 and Table 69 give (log 22). -/

namespace Sys2Proof.Machine

/-! ## Shared encodings -/

/-- An optional number of `n` bytes (R199). -/
def optNat (n : Nat) (v : Option Nat) : List Byte := optField n (v.map (le n))

/-- An optional one-byte code or number (R199). -/
def optByte (v : Option Byte) : List Byte := optField 1 (v.map (fun b => [b]))

/-- A timer's time remaining: from 1 to its limit, which of them a free value (log 3); absent while stopped. -/
def timeRemaining (n : Nat) (t : Timer) : Option Nat := t.map (fun limit => 1 + Config.timeLeft n % limit)

/-- A timer in the width of its limit (R199). -/
def encodeTimer (width n : Nat) (t : Timer) : List Byte := optNat width (timeRemaining n t)

/-- The port error record: kind, and the tag when present (Table 18). That it is empty is sent as an absent optional
field, with its own presence byte (log 22). -/
def encodePortError (e : Option PortError) : List Byte :=
  optField 3 (e.map (fun x => x.kind.code :: optByte x.tag))

/-- The first error record: kind, line, segment and origin (Table 32). That it is empty is sent as an absent optional
field, with its own presence byte (log 22). -/
def encodeFirstError (e : Option FirstError) : List Byte :=
  optField 11 (e.map (fun x =>
    match x with
    | .uncorrectable line segment origin =>
      x.code :: (optNat 4 (some line) ++ optNat 2 segment ++ optByte (some (finByte origin)))
    | .fault => x.code :: (optNat 4 none ++ optNat 2 none ++ optByte none)))

/-! ## READ_LAYOUT (Table 69) -/

/-- A channel start, FFFFh when absent. -/
def encodeStart (v : Option Nat) : List Byte := le 2 (v.getD 0xFFFF)

def LayoutRange.encode (r : LayoutRange) : List Byte :=
  le 2 r.limit ++ [r.mode.code] ++ encodeStart r.ch0Start ++ encodeStart r.ch1Start

def Layout.report (l : Layout) : List Byte :=
  [l.pool.code] ++ le 2 l.size ++ [flagByte l.preserve] ++
  (match l.pool with
   | .offline => le 2 0xFFFF ++ le 2 0xFFFF
   | .online _ c0 c1 => le 2 c0 ++ le 2 c1) ++
  [BitVec.ofNat 8 l.ranges.length] ++ (l.ranges.map LayoutRange.encode).flatten

/-! ## READ_EXTENT (R184) -/

def Mapping.encode (m : Mapping) : List Byte := le 2 m.windowBase ++ [m.rights.code]

def ExtentBody.encode (b : ExtentBody) : List Byte :=
  le 2 b.poolBase ++ le 2 b.length ++ [b.share.code] ++ le 2 b.generation.toNat ++
  (b.mapping.toList.map (fun m => optField 3 (m.map Mapping.encode))).flatten

/-- The fields of the relocation record that R184 adds. -/
def Relocation.encode (r : Relocation) : List Byte :=
  le 2 r.targetBase ++ [r.phase.name.code] ++ le 4 r.cursor ++ [BitVec.ofNat 8 r.pairs.length] ++ le 4 r.poisonedLines

def State.reportExtent (s : State) (x : ExtentId) : List Byte :=
  match s.extent x with
  | .free => [(s.extent x).code]
  | .active b => [(s.extent x).code] ++ b.encode ++ optNat 2 none ++ optField 12 none
  | .changing b id => [(s.extent x).code] ++ b.encode ++ optNat 2 (some id) ++ optField 12 none
  | .relocating b =>
    [(s.extent x).code] ++ b.encode ++ optNat 2 none ++ optField 12 (s.copyEngine.running?.map Relocation.encode)

/-! ## READ_PORT (R185) -/

/-- The values of Table 18. The counters and the error record stand last. -/
def LinkPort.encode (x : LinkPort) (n : Nat) : List Byte :=
  [x.state.code] ++ encodeTimer 1 n x.bringUpTimer ++ le 2 x.windowSize ++
  [BitVec.ofNat 8 x.readOffer, BitVec.ofNat 8 x.writeOffer] ++
  le 2 (x.acceptance.getD 0) ++ [flagByte x.acceptance.isSome] ++
  [BitVec.ofNat 8 x.grantedReads, BitVec.ofNat 8 x.grantedWrites]

/-- The three counters and the port error record (R58). -/
def LinkPort.encodeErrors (x : LinkPort) : List Byte :=
  le 2 x.crcDrops ++ [BitVec.ofNat 8 x.protocolErrors, BitVec.ofNat 8 x.orphanData] ++ encodePortError x.error

/-- The values of a Notice Queue that READ_PORT reports (R165). The oldest and the newest sequence are sent as an optional
field each, with its own presence byte (log 22). -/
def NoticeQueue.encode (q : NoticeQueue) : List Byte :=
  [BitVec.ofNat 8 q.notices.length] ++ optByte (q.notices.head?.map (·.sequence)) ++
  optByte (q.notices.getLast?.map (·.sequence)) ++ [q.next, BitVec.ofNat 8 q.lost]

/-- Whether port p is in the eligibility set and whether it holds the manager role (R60), one flag byte each. -/
def State.encodeRole (s : State) (p : PortId) : List Byte :=
  [flagByte (s.eligible.getLsbD p.val), flagByte (decide (s.holder = .port p))]

/-- The data of READ_PORT: the values that R185 names, and after them the two of PORT_STATUS that R60 has READ_PORT report
and R185 does not list (their place is the model's choice, log 43). -/
def State.reportPort (s : State) (p : PortId) : List Byte :=
  (s.port p).encode s.fresh ++ (s.port p).encodeErrors ++ encodeTimer 1 s.fresh (s.port p).bringUpTimer ++
  (s.noticeQueue p).encode ++
  [BitVec.ofNat 8 (countedOf .read (s.tracker p)), BitVec.ofNat 8 (countedOf .write (s.tracker p)),
   BitVec.ofNat 8 (retiringOf (s.tracker p)), flagByte (s.slot p).isSome] ++ s.encodeRole p

/-! ## READ_CHANNEL (R185) and READ_ERRORS (R186) -/

/-- The five arbiter positions in order, the origins of a work queue. -/
def allPositions : List Position := [0, 1, 2, 3, 4]

/-- The data of READ_CHANNEL (R185). An empty module slot is sent as an absent optional field, with its own presence byte
(log 22). -/
def State.reportChannel (s : State) (c : ChannelId) : List Byte :=
  let x := s.channel c
  [x.state.code] ++ (x.slots.toList.map (optNat 1)).flatten ++ le 2 x.reportedCapacity ++
  [x.fillKind.code, BitVec.ofNat 8 x.queue.length] ++ encodeFirstError x.firstError ++
  [BitVec.ofNat 8 x.furtherErrors] ++ le 2 x.correctable ++
  allPositions.map (fun pos => BitVec.ofNat 8 (x.reservedUsed pos)) ++ [BitVec.ofNat 8 x.sharedUsed] ++
  le 2 (s.layout.consumption c) ++ optByte x.state.stageCode

def Channel.encodeErrors (x : Channel) : List Byte :=
  encodeFirstError x.firstError ++ [BitVec.ofNat 8 x.furtherErrors] ++ le 2 x.correctable

/-- The data of READ_ERRORS (R186): all the fields of CH0, then those of CH1, then those of each port; R199 does not say
whether it is grouped so or by field (log 22). -/
def State.reportErrors (s : State) : List Byte :=
  (s.channel 0).encodeErrors ++ (s.channel 1).encodeErrors ++
  (allPorts.map (fun p => (s.port p).encodeErrors)).flatten

/-! ## READ_STATUS (R183) -/

/-- The operand bytes of SUBMIT as one list (Table 68). -/
def encodeSubmit (kind : RecordKind) (presence : Nat) (extent port secondPort : Byte) (windowBase : Nat) (rights : Byte)
    (poolBase length : Nat) (shareMode : Byte) (windowSize : Nat) (confirm force : Bool) : List Byte :=
  [kind.code] ++ le 2 presence ++ [extent, port, secondPort] ++ le 2 windowBase ++ [rights] ++ le 2 poolBase ++
  le 2 length ++ [shareMode] ++ le 2 windowSize ++ [flagByte confirm, flagByte force]

/-- A change as the SUBMIT operands that name it: the presence bits of the operands its kind uses, the other fields
zero (R199, log 22). -/
def ChangeOp.encode : ChangeOp → List Byte
  | .create x b n sh => encodeSubmit .create 0xE1 (finByte x) 0 0 0 0 b n sh.code 0 false false
  | .retire x => encodeSubmit .retire 0x01 (finByte x) 0 0 0 0 0 0 0 0 false false
  | .map x p wb r => encodeSubmit .map 0x1B (finByte x) (finByte p) 0 wb r.code 0 0 0 0 false false
  | .setShare x sh => encodeSubmit .setShare 0x81 (finByte x) 0 0 0 0 0 0 sh.code 0 false false
  | .setWindow p n => encodeSubmit .setWindow 0x102 0 (finByte p) 0 0 0 0 0 0 n false false
  | .setRights x p r c f => encodeSubmit .setRights 0x613 (finByte x) (finByte p) 0 0 r.code 0 0 0 0 c f
  | .unmap x p c f => encodeSubmit .unmap 0x603 (finByte x) (finByte p) 0 0 0 0 0 0 0 c f
  | .transfer x p q wb r c f => encodeSubmit .transfer 0x61F (finByte x) (finByte p) (finByte q) wb r.code 0 0 0 0 c f
  | .relocate x b => encodeSubmit .relocate 0x21 (finByte x) 0 0 0 0 b 0 0 0 false false

/-- The PENDING notice of the active change: its code (free, log 21), and the sequence when sent. -/
def PendingNotice.encode : PendingNotice → List Byte
  | .none => Config.pendingNoticeCode 0 :: optByte Option.none
  | .held => Config.pendingNoticeCode 1 :: optByte Option.none
  | .sent sq => Config.pendingNoticeCode 2 :: optByte (some sq)

/-- The active change (Table 41), 37 bytes. A confirmation that is not recorded yet is sent as zeros (R192). -/
def State.encodeHandover (s : State) (h : Handover) : List Byte :=
  le 2 h.change.id ++ [submitterCode h.change.submitter] ++ h.change.op.encode ++
  [finByte h.losing, Config.countedKindCode h.writesOnly, h.phase.code, flagByte h.forced,
   (h.confirmation.map Confirmation.code).getD 0x00] ++
  h.pendingNotice.encode ++ encodeTimer 2 s.fresh h.confirmTimer ++ encodeTimer 2 s.fresh h.drainTimer ++
  [BitVec.ofNat 8 (s.drainCount h), BitVec.ofNat 8 h.abortedCount]

def CutHandover.encode (x : CutHandover) : List Byte :=
  le 2 x.changeId ++ [x.kind.code, finByte x.extent, finByte x.losing, x.phase.code]

def CutRelocation.encode (x : CutRelocation) : List Byte :=
  [finByte x.extent, x.phase.code] ++ le 4 x.cursor

/-- The interrupted-operation record (Table 45). -/
def encodeInterrupted (x : Option Interrupted) : List Byte :=
  [flagByte x.isSome] ++
  optField 6 (x.bind (fun y => y.handover.map CutHandover.encode)) ++
  optField 6 (x.bind (fun y => y.relocation.map CutRelocation.encode)) ++
  optNat 1 (x.map (·.changesDiscarded)) ++ optNat 1 (x.map (·.recordsDiscarded))

/-- The four limits in the layout of SET_TIMERS (Table 68). -/
def Limits.encode (l : Limits) : List Byte :=
  le 2 l.confirm ++ le 2 l.drain ++ [BitVec.ofNat 8 l.bringUp] ++ le 2 l.writeData

/-- The data of READ_STATUS (R183). The extent and the phase of a running relocation are sent as an optional field each,
with its own presence byte (log 22). -/
def State.reportStatus (s : State) : List Byte :=
  [s.layout.pool.code] ++ le 2 s.layout.size ++ [s.holder.code, s.eligible.zeroExtend 8] ++
  [BitVec.ofNat 8 s.changeQueue.length] ++ optNat 2 (s.changeQueue.head?.map (·.id)) ++ le 2 s.nextChangeId ++
  optField 37 (s.active.map s.encodeHandover) ++
  [BitVec.ofNat 8 s.completions.length, flagByte s.active.isSome] ++
  [s.copyEngine.code] ++ optByte (s.copyEngine.running?.map (fun r => finByte r.extent)) ++
  optByte (s.copyEngine.running?.map (fun r => r.phase.name.code)) ++
  encodeInterrupted s.interrupted ++ s.limits.encode ++
  [s.lastReset.cause.code, flagByte s.lastReset.preserved, s.alertByte] ++
  allPorts.map (fun p => (s.port p).state.code) ++ [(s.channel 0).state.code, (s.channel 1).state.code]

end Sys2Proof.Machine
end

