-- ==== Sys2Proof/Machine/ReadRequests.lean ====
section
/-! DEFINITION. Read requests (R37, R183 to R187), open to every path. -/

namespace Sys2Proof.Machine

/-- A report answered OK; each report takes its own free values (log 3). -/
def State.report (s : State) (data : List Byte) : State × Reply := ({ s with fresh := s.fresh + 1 }, .now .ok data)

/-- READ_STATUS (R183). -/
def execReadStatus (path : MgmtPath) (s : State) : Host.Outcome State Fault Refusal :=
  .next (s.request path Req.readStatus fun s => s.report s.reportStatus)

/-- READ_EXTENT (R184). -/
def execReadExtent (path : MgmtPath) (extent : Byte) (s : State) : Host.Outcome State Fault Refusal :=
  .next (s.request path Req.readExtent fun s =>
    match extentOperand extent with
    | none => s.badRequest
    | some x => s.report (s.reportExtent x))

/-- READ_LAYOUT (R37). -/
def execReadLayout (path : MgmtPath) (s : State) : Host.Outcome State Fault Refusal :=
  .next (s.request path Req.readLayout fun s => s.report s.layout.report)

/-- READ_PORT (R185): open to every path, and a holder request with the clear option. -/
def execReadPort (path : MgmtPath) (port clear : Byte) (s : State) : Host.Outcome State Fault Refusal :=
  .next (s.request path Req.readPort fun s =>
    match portOperand port, flagOperand clear with
    | some p, some false => s.report (s.reportPort p)
    | some p, some true =>
      s.holderOnly path fun s => (s.setPort p (s.port p).clearCounters).report (s.reportPort p)
    | _, _ => s.badRequest)

/-- READ_CHANNEL (R185). -/
def execReadChannel (path : MgmtPath) (channel : Byte) (s : State) : Host.Outcome State Fault Refusal :=
  .next (s.request path Req.readChannel fun s =>
    match channelOperand channel with
    | none => s.badRequest
    | some c => s.report (s.reportChannel c))

/-- READ_ERRORS (R186). -/
def execReadErrors (path : MgmtPath) (s : State) : Host.Outcome State Fault Refusal :=
  .next (s.request path Req.readErrors fun s => s.report s.reportErrors)

/-- A completion record with a count, the data of PEEK and POP (Table 68). -/
def recordData (r : CompletionRecord) (count : Nat) : List Byte := r.encode ++ [BitVec.ofNat 8 count]

/-- PEEK_COMPLETION (R187). -/
def execPeekCompletion (path : MgmtPath) (s : State) : Host.Outcome State Fault Refusal :=
  .next (s.request path Req.peekCompletion fun s =>
    match s.completions with
    | [] => (s, .status .notFound)
    | r :: rest => (s, .now .ok (recordData r (rest.length + 1))))

end Sys2Proof.Machine
end

