-- ==== Sys2Proof/Machine/HolderRequests.lean ====
section
/-! DEFINITION. Holder requests (Table 62). Check 1 of R177 tests the operands of R198 first, then the holder is tested,
then the owning rule decides. -/

namespace Sys2Proof.Machine

/-! ## Change queue and completion queue -/

/-- The change id after one, 1..65535 (R115). -/
def nextId (n : Nat) : Nat := if n = 65535 then 1 else n + 1

/-- A submission appended with the counter's value as its id (R115). -/
def State.appendChange (s : State) (path : MgmtPath) (op : ChangeOp) : State :=
  { s with changeQueue := s.changeQueue ++ [{ id := s.nextChangeId, submitter := path, op := op }],
           nextChangeId := nextId s.nextChangeId }

/-- SUBMIT (R115). -/
def execSubmit (path : MgmtPath) (operands : SubmitOperands) (s : State) : Host.Outcome State Fault Refusal :=
  .next (s.request path Req.submit fun s => s.holderOnly path fun s =>
    match operands.change? with
    | none => s.badRequest
    | some op =>
      if s.changeQueue.length < Config.changeQueueSize then
        (s.appendChange path op, .now .ok (le 2 s.nextChangeId))
      else (s, .status .queueFull))

/-- The stage a CANCEL of the active handover records (Table 44). -/
def HandoverPhase.stage : HandoverPhase → CancelStage
  | .confirm => .confirm
  | .drain => .drain

/-- The changes that have not started: all of the queue but the active change's record (R116). -/
def State.waitingChanges (s : State) : List ChangeRecord := if s.active.isSome then s.changeQueue.tail else s.changeQueue

/-- A queue without the first waiting change of an id. -/
def removeChange (id : Nat) (l : List ChangeRecord) : List ChangeRecord := l.eraseP (fun ch => decide (ch.id = id))

/-- A queued change cancelled: removed from among the waiting changes, and its record posted (R138). -/
def State.cancelQueued (s : State) (ch : ChangeRecord) : State :=
  let queue := if s.active.isSome then s.changeQueue.take 1 ++ removeChange ch.id s.changeQueue.tail
    else removeChange ch.id s.changeQueue
  let t := { s with changeQueue := queue }
  t.postRecord (t.changeRecord ch (.cancelled .queued))

/-- The change queue's answer to a CANCEL: queued, or not found (R138). -/
def State.cancelWaiting (s : State) (id : Nat) : State × Reply :=
  match s.waitingChanges.find? (fun ch => decide (ch.id = id)) with
  | none => (s, .status .notFound)
  | some ch => if s.placeFree then (s.cancelQueued ch, .status .ok) else (s, .status .queueFull)

/-- CANCEL (R138): the active handover rolled back, a queued change removed, or NOT_FOUND. -/
def execCancel (path : MgmtPath) (id : BitVec 16) (s : State) : Host.Outcome State Fault Refusal :=
  .next (s.request path Req.cancel fun s => s.holderOnly path fun s =>
    match s.active with
    | some h =>
      if h.change.id = id.toNat then (s.rollback h (.cancelled h.phase.stage), .status .ok) else s.cancelWaiting id.toNat
    | none => s.cancelWaiting id.toNat)

/-- POP_COMPLETION (R187). -/
def execPopCompletion (path : MgmtPath) (s : State) : Host.Outcome State Fault Refusal :=
  .next (s.request path Req.popCompletion fun s => s.holderOnly path fun s =>
    match s.completions with
    | [] => (s, .status .notFound)
    | r :: rest => ({ s with completions := rest }, .now .ok (recordData r rest.length)))

/-! ## Relocation, errors, interrupted record -/

/-- ABORT_RELOCATION (R158). -/
def execAbortRelocation (path : MgmtPath) (extent : Byte) (s : State) : Host.Outcome State Fault Refusal :=
  .next (s.request path Req.abortRelocation fun s =>
    match extentOperand extent with
    | none => s.badRequest
    | some x =>
      s.holderOnly path fun s =>
        match s.copyEngine with
        | .running r =>
          if r.extent = x then
            match r.phase with
            | .copying => ({ s with copyEngine := .running { r with phase := .abandoning .requested } }, .status .ok)
            | .finishing => (s, .status .tooLate)
            | .abandoning _ => (s, .status .notFound)
          else (s, .status .notFound)
        | _ => (s, .status .notFound))

/-- A channel with its first error record empty and both counts 0 (R111). -/
def Channel.clearErrors (x : Channel) : Channel := { x with firstError := none, furtherErrors := 0, correctable := 0 }

def State.clearErrorsOf (s : State) (c : ChannelId) : State := s.setChannel c (s.channel c).clearErrors

/-- CLEAR_ERRORS (R111): CH0, CH1 or both. -/
def execClearErrors (path : MgmtPath) (selector : Byte) (s : State) : Host.Outcome State Fault Refusal :=
  .next (s.request path Req.clearErrors fun s =>
    match selector.toNat with
    | 0 => s.holderOnly path fun s => (s.clearErrorsOf 0, .status .ok)
    | 1 => s.holderOnly path fun s => (s.clearErrorsOf 1, .status .ok)
    | 2 => s.holderOnly path fun s => ((s.clearErrorsOf 0).clearErrorsOf 1, .status .ok)
    | _ => s.badRequest)

/-- CLEAR_INTERRUPTED (R143). -/
def execClearInterrupted (path : MgmtPath) (s : State) : Host.Outcome State Fault Refusal :=
  .next (s.request path Req.clearInterrupted fun s => s.holderOnly path fun s =>
    ({ s with interrupted := none }, .status .ok))

/-! ## Layout -/

/-- SET_LAYOUT (R26). -/
def execSetLayout (path : MgmtPath) (index : Byte) (limit : BitVec 16) (mode : Byte) (s : State) :
    Host.Outcome State Fault Refusal :=
  .next (s.request path Req.setLayout fun s => s.holderOnly path fun s =>
    if s.layout.isOnline then (s, .status .wrongState)
    else if s.layout.ranges.length < index.toNat ∨ 7 < index.toNat then s.badRequest
    else match inRange 1 1024 limit.toNat, modeOperand mode with
      | some n, some m =>
        ({ s with layout := { s.layout with ranges := editRanges s.layout.ranges index.toNat n m } }, .status .ok)
      | _, _ => s.badRequest)

/-- CLEAR_LAYOUT (R27). -/
def execClearLayout (path : MgmtPath) (s : State) : Host.Outcome State Fault Refusal :=
  .next (s.request path Req.clearLayout fun s => s.holderOnly path fun s =>
    if s.layout.isOnline then (s, .status .wrongState)
    else ({ s with layout := { s.layout with ranges := [] } }, .status .ok))

/-- The first channel, CH0 before CH1, that fails a check. -/
def firstChannel (fails : ChannelId → Bool) : Option ChannelId :=
  if fails 0 then some 0 else if fails 1 then some 1 else none

/-- Consumption of a channel as POOL_COMMIT computes it (R28). -/
def computedConsumption (ranges : List LayoutRange) (c : ChannelId) : Nat :=
  if c = 0 then (computeStarts 0 0 0 ranges).2.1 else (computeStarts 0 0 0 ranges).2.2

/-- The refusal of a POOL_COMMIT by checks 2 to 6 of Table 13, with its detail. -/
def State.commitRefusal (s : State) : Option (RefusedReason × List Byte) :=
  let ranges := s.layout.ranges
  if ranges = [] then some (.noRanges, [])
  else match firstLimitFault 0 0 ranges with
    | some i => some (.limitOrder, [BitVec.ofNat 8 i])
    | none =>
      match firstOddRange 0 (withLower 0 ranges) with
      | some i => some (.oddLength, [BitVec.ofNat 8 i])
      | none =>
        match firstChannel (fun c => channelNamed ranges c && decide ((s.channel c).state ≠ .online)) with
        | some c => some (.channelNotOnline, [finByte c])
        | none =>
          match firstChannel (fun c => channelNamed ranges c &&
              decide ((s.channel c).capacity < computedConsumption ranges c)) with
          | some c => some (.capacity, [finByte c])
          | none => none

/-- The layout that a POOL_COMMIT makes ONLINE (R28, R29). -/
def Layout.committed (l : Layout) : Layout :=
  { l with pool := .online (lastLimit l.ranges) (computedConsumption l.ranges 0) (computedConsumption l.ranges 1),
           ranges := (computeStarts 0 0 0 l.ranges).1 }

/-- POOL_COMMIT (R29). -/
def execPoolCommit (path : MgmtPath) (s : State) : Host.Outcome State Fault Refusal :=
  .next (s.request path Req.poolCommit fun s => s.holderOnly path fun s =>
    if s.layout.isOnline then (s, .status .wrongState)
    else match s.commitRefusal with
      | some (reason, detail) => (s, .now (.refused reason) detail)
      | none =>
        ({ s with layout := s.layout.committed },
         .now .ok (le 2 s.layout.committed.size ++ le 2 (s.layout.committed.consumption 0) ++
           le 2 (s.layout.committed.consumption 1))))

/-- The layout after a POOL_TEARDOWN (R31): OFFLINE, the ranges kept without starts. -/
def Layout.tornDown (l : Layout) : Layout := { l with pool := .offline, ranges := l.ranges.map LayoutRange.clearStarts }

/-- POOL_TEARDOWN (R31). -/
def execPoolTeardown (path : MgmtPath) (s : State) : Host.Outcome State Fault Refusal :=
  .next (s.request path Req.poolTeardown fun s => s.holderOnly path fun s =>
    if s.layout.isOnline then
      if allExtents.any (fun x => !(s.extent x).isFree) then (s, .status (.refused .extentsInUse))
      else ({ s with layout := s.layout.tornDown }, .status .ok)
    else (s, .status .wrongState))

/-! ## Channels -/

/-- CHANNEL_ONLINE (R92): detection starts, and the response is held until it ends. -/
def execChannelOnline (path : MgmtPath) (channel : Byte) (s : State) : Host.Outcome State Fault Refusal :=
  .next (s.request path Req.channelOnline fun s =>
    match channelOperand channel with
    | none => s.badRequest
    | some c =>
      s.holderOnly path fun s =>
        match (s.channel c).state with
        | .offline => (s.setChannel c { s.channel c with state := .detecting false (some path) }, .later)
        | .faulted => (s.setChannel c { s.channel c with state := .detecting true (some path) }, .later)
        | .detecting _ _ | .filling | .online => (s, .status .wrongState))

/-- A channel taken OFFLINE (R94): what is left in its work queue aborted, its slots and contents dropped. -/
def State.takeOffline (s : State) (c : ChannelId) : State :=
  let t := s.abortQueue c
  t.setChannel c (t.channel c).goOffline

/-- CHANNEL_OFFLINE (R94). -/
def execChannelOffline (path : MgmtPath) (channel : Byte) (s : State) : Host.Outcome State Fault Refusal :=
  .next (s.request path Req.channelOffline fun s =>
    match channelOperand channel with
    | none => s.badRequest
    | some c =>
      s.holderOnly path fun s =>
        if (s.channel c).state = .offline then (s, .status .wrongState)
        else if s.layout.uses c then (s, .status (.refused .channelInUse))
        else match (s.channel c).state with
          | .detecting _ _ => (s, .status .wrongState)
          | _ => (s.takeOffline c, .status .ok))

/-! ## Ports -/

/-- PORT_ENABLE (R61). -/
def execPortEnable (path : MgmtPath) (port : Byte) (s : State) : Host.Outcome State Fault Refusal :=
  .next (s.request path Req.portEnable fun s =>
    match portOperand port with
    | none => s.badRequest
    | some p =>
      s.holderOnly path fun s =>
        if (s.port p).state = .disabled then (s.setPort p { s.port p with state := .down }, .status .ok)
        else (s, .status .wrongState))

/-- The counters and the error record of port p cleared (R58). -/
def State.clearPort (s : State) (p : PortId) : State := s.setPort p (s.port p).clearCounters

/-- PORT_DISABLE (R54, R61). -/
def execPortDisable (path : MgmtPath) (port : Byte) (s : State) : Host.Outcome State Fault Refusal :=
  .next (s.request path Req.portDisable fun s =>
    match portOperand port with
    | none => s.badRequest
    | some p =>
      s.holderOnly path fun s =>
        (if (s.port p).state = .disabled then s.clearPort p else s.resetPort p .disabled true, .status .ok))

/-- PORT_RESET (R54, R61). -/
def execPortReset (path : MgmtPath) (port : Byte) (s : State) : Host.Outcome State Fault Refusal :=
  .next (s.request path Req.portReset fun s =>
    match portOperand port with
    | none => s.badRequest
    | some p =>
      s.holderOnly path fun s =>
        (if (s.port p).state = .disabled then s.clearPort p else s.resetPort p .down true, .status .ok))

/-- Whether new offers would fall below the credits of the current open (R62). -/
def LinkPort.belowGrant (x : LinkPort) (r w : Nat) : Bool :=
  (decide (x.state = .opened) || decide (x.state = .closing)) &&
    (decide (r < x.grantedReads) || decide (w < x.grantedWrites))

/-- SET_OFFER (R62). -/
def execSetOffer (path : MgmtPath) (port readOffer writeOffer : Byte) (s : State) : Host.Outcome State Fault Refusal :=
  .next (s.request path Req.setOffer fun s =>
    match portOperand port with
    | none => s.badRequest
    | some p =>
      s.holderOnly path fun s =>
        match inRange 1 24 readOffer.toNat, inRange 1 16 writeOffer.toNat with
        | some r, some w =>
          if (s.port p).belowGrant r w then (s, .status (.refused .belowGrant))
          else (s.setPort p { s.port p with readOffer := r, writeOffer := w }, .status .ok)
        | _, _ => s.badRequest)

/-! ## Settings -/

/-- A new limit: 0 keeps the old one, else the value in its range (R188). -/
def newLimit (old bound value : Nat) : Option Nat := if value = 0 then some old else inRange 1 bound value

/-- The limits that a SET_TIMERS writes, `none` when a value is out of range (R188). -/
def Limits.update (l : Limits) (confirm drain bringUp writeData : Nat) : Option Limits :=
  match newLimit l.confirm 60000 confirm, newLimit l.drain 10000 drain, newLimit l.bringUp 250 bringUp,
      newLimit l.writeData 1000 writeData with
  | some c, some d, some b, some w => some { confirm := c, drain := d, bringUp := b, writeData := w }
  | _, _, _, _ => none

/-- SET_TIMERS (R188). -/
def execSetTimers (path : MgmtPath) (confirm drain : BitVec 16) (bringUp : Byte) (writeData : BitVec 16) (s : State) :
    Host.Outcome State Fault Refusal :=
  .next (s.request path Req.setTimers fun s => s.holderOnly path fun s =>
    match s.limits.update confirm.toNat drain.toNat bringUp.toNat writeData.toNat with
    | none => s.badRequest
    | some l => ({ s with limits := l }, .now .ok l.encode))

/-- SET_PRESERVE (R38). -/
def execSetPreserve (path : MgmtPath) (value : Byte) (s : State) : Host.Outcome State Fault Refusal :=
  .next (s.request path Req.setPreserve fun s =>
    match flagOperand value with
    | none => s.badRequest
    | some b =>
      s.holderOnly path fun s => ({ s with layout := { s.layout with preserve := b } }, .status .ok))

end Sys2Proof.Machine
end

