-- ==== Sys2Proof/Machine/LinkEvents.lean ====
section
/-! DEFINITION. Commands of the physical layer and the bring-up timer (sections 3.2, 3.6). -/

namespace Sys2Proof.Machine

/-- PARTNER_DETECTED (R42): in DOWN the port enters TRAINING and its bring-up timer starts. -/
def execPartnerDetected (p : PortId) (s : State) : Host.Outcome State Fault Refusal :=
  .next (s.whenRunning fun s =>
    if (s.port p).state = .down then
      s.setPort p { s.port p with state := .training, bringUpTimer := some s.limits.bringUp }
    else s)

/-- TRAINING_COMPLETE (R43): in TRAINING the port enters AWAIT_OPEN, not accepted, credits 0, the timer running on. -/
def execTrainingComplete (p : PortId) (s : State) : Host.Outcome State Fault Refusal :=
  .next (s.whenRunning fun s =>
    if (s.port p).state = .training then
      s.setPort p { s.port p with state := .awaitOpen, acceptance := none, grantedReads := 0, grantedWrites := 0 }
    else s)

/-- TRAINING_FAILED (R43): a new attempt in TRAINING, the timer running on; no effect elsewhere. -/
def execTrainingFailed (_p : PortId) (s : State) : Host.Outcome State Fault Refusal := .next s

/-- LINK_LOST (R43, R45, R54): from OPEN and CLOSING a port reset, counters kept; from TRAINING and AWAIT_OPEN the port
goes DOWN and the notice sequence to 0 (R173); no effect in DISABLED, DOWN and FAILED. -/
def execLinkLost (p : PortId) (s : State) : Host.Outcome State Fault Refusal :=
  .next (s.whenRunning fun s =>
    match (s.port p).state with
    | .training | .awaitOpen => (s.setPort p ((s.port p).drop .down)).setNoticeQueue p .empty
    | .opened | .closing => s.resetPort p .down false
    | .disabled | .down | .failed => s)

/-- BRING_UP_TIMER_EXPIRY (R44, R45): in TRAINING or AWAIT_OPEN, with the timer running, the port enters FAILED. -/
def execBringUpTimerExpiry (p : PortId) (s : State) : Host.Outcome State Fault Refusal :=
  .next (s.whenRunning fun s =>
    if ((s.port p).state = .training ∨ (s.port p).state = .awaitOpen) ∧ (s.port p).bringUpTimer.isSome = true then
      s.setPort p ((s.port p).drop .failed)
    else s)

end Sys2Proof.Machine
end

