-- ==== Sys2Proof/Machine/Reset.lean ====
section
/-! DEFINITION. Power-on and the bridge reset (R189): what each block takes at its beginning and at its end. -/

namespace Sys2Proof.Machine

/-- Every block at its power-on values (Tables 14, 23, 29, 36, 46, 53, 55, 64 and R21). The commands that wait, the
level of RESET_N and the count of free values are not the bridge's to reset. -/
def State.atPowerOn (s : State) (power : Power) (straps : Straps) : State :=
  { State.reset with power := power, resetNLow := s.resetNLow, straps := straps, eligible := straps.mgrEn,
                     fresh := s.fresh, pending := s.pending }

/-! ## Each block at a bridge reset -/

/-- Link Port n at a bridge reset (Table 23). -/
def LinkPort.atBridgeReset (x : LinkPort) (preserve : Bool) : LinkPort :=
  { LinkPort.atPowerOn with
      state := if x.state = .disabled then .disabled else .down
      windowSize := if preserve then x.windowSize else 0
      readOffer := if preserve then x.readOffer else LinkPort.atPowerOn.readOffer
      writeOffer := if preserve then x.writeOffer else LinkPort.atPowerOn.writeOffer }

/-- The Layout Decoder at a bridge reset (Table 14). -/
def Layout.atBridgeReset (l : Layout) (preserve : Bool) : Layout :=
  if preserve then { l with preserve := false } else { pool := .offline, ranges := [], preserve := false }

/-- A record's fields after a relocation cut by a reset that preserves: committed in FINISHING, else as they were
(Table 10, R164). -/
def Relocation.resolveCut (r : Relocation) (b : ExtentBody) : ExtentBody :=
  match r.phase with
  | .finishing => b.relocated r.targetBase
  | _ => b

/-- An extent record at a bridge reset that preserves (Table 10). -/
def Extent.atPreserve (copy : CopyEngine) : Extent → Extent
  | .free => .free
  | .active b => .active b
  | .changing b _ => .active b
  | .relocating b =>
    match copy with
    | .running r => .active (r.resolveCut b)
    | _ => .active b

/-- Extent records at a bridge reset (R21, R22). -/
def State.extentsAtReset (s : State) (preserve : Bool) : Vector Extent 64 :=
  if preserve then s.extents.map (Extent.atPreserve s.copyEngine) else Vector.replicate 64 .free

/-- A channel at a bridge reset (Table 36). With preserve an ONLINE channel keeps its contents, each line of an
operation in progress holding its old or its new contents; `n` numbers the free values. -/
def Channel.atBridgeReset (x : Channel) (preserve : Bool) (n : Nat) : Channel :=
  let cleared := { x with queue := [], lastWinner := 4, retentionFault := false }
  if preserve then
    match x.state with
    | .online => { cleared with memory := x.memory.cut n [] x.queue }
    | .detecting _ _ => cleared.goOffline
    | .filling => cleared.goOffline
    | .offline => cleared
    | .faulted => cleared
  else { cleared.goOffline with fillKind := .zero }

/-- The handover part of the interrupted-operation record (R142). -/
def Handover.cutPart (h : Handover) : CutHandover :=
  { changeId := h.change.id, kind := h.change.op.recordKind, extent := h.extent, losing := h.losing, phase := h.phase }

/-- The relocation part of the interrupted-operation record (R142, R164). -/
def Relocation.cutPart (r : Relocation) : CutRelocation :=
  { extent := r.extent, phase := r.phase.name, cursor := r.cursor }

/-- Changes in the queue that had not started (R142). -/
def State.changesNotStarted (s : State) : Nat := s.changeQueue.length - (if s.active.isSome then 1 else 0)

/-- Completion records discarded, a held end record counted (R142). -/
def State.recordsHeld (s : State) : Nat :=
  s.completions.length +
    match s.copyEngine with
    | .ending _ => 1
    | _ => 0

/-- The interrupted-operation record after a bridge reset that preserves: written anew when something was cut, else as
it was (R142). -/
def State.interruptedAtPreserve (s : State) : Option Interrupted :=
  let record : Interrupted :=
    { handover := s.active.map Handover.cutPart, relocation := s.copyEngine.running?.map Relocation.cutPart,
      changesDiscarded := s.changesNotStarted, recordsDiscarded := s.recordsHeld }
  if record.handover.isSome ∨ record.relocation.isSome ∨ 0 < record.changesDiscarded ∨ 0 < record.recordsDiscarded then
    some record
  else s.interrupted

/-! ## Beginning and end -/

/-- The beginning of a bridge reset (R189): the preserve flag taken and cleared, every block at its reset values. The
straps, the eligibility set and a fault during retention wait for the end (log 18). -/
def State.beginReset (s : State) (cause : ResetCause) : State :=
  let preserve := s.layout.preserve
  { s with
      power := .inReset
      ports := s.ports.map (fun x => x.atBridgeReset preserve)
      trackers := Vector.replicate 4 []
      noticeQueues := Vector.replicate 4 NoticeQueue.empty
      extents := s.extentsAtReset preserve
      layout := s.layout.atBridgeReset preserve
      channels := #v[(s.channel 0).atBridgeReset preserve s.fresh,
                     (s.channel 1).atBridgeReset preserve (s.fresh + (s.channel 0).queue.length)]
      changeQueue := []
      active := none
      completions := []
      interrupted := if preserve then s.interruptedAtPreserve else none
      copyEngine := .idle
      limits := if preserve then s.limits else Limits.default
      holder := .none
      i2c := .empty
      slots := Vector.replicate 4 none
      lastReset := { cause := cause, preserved := preserve }
      fresh := s.fresh + (s.channel 0).queue.length + (s.channel 1).queue.length }

/-- A channel as a bridge reset ends: FAULTED, with one fault recorded, when faults came during retention (R113,
log 38). -/
def Channel.endRetention (x : Channel) : Channel :=
  if x.retentionFault then { x with state := .faulted, retentionFault := false }.recordError .fault else x

/-- The end of a bridge reset (R189): the straps sampled, the eligibility set loaded, the channels brought back. -/
def State.endReset (s : State) (straps : Straps) : State :=
  { s with power := .running, straps := straps, eligible := straps.mgrEn,
           channels := #v[(s.channel 0).endRetention, (s.channel 1).endRetention] }

end Sys2Proof.Machine
end

