-- ==== Sys2Proof/Machine/PowerAndReset.lean ====
section
/-! DEFINITION. Commands of power and reset (R189). -/

namespace Sys2Proof.Machine

/-- POWER_ON (R189): every block takes its power-on values. With RESET_N low the bridge is then held in reset. -/
def execPowerOn (straps : Straps) (s : State) : Host.Outcome State Fault Refusal :=
  .next (s.atPowerOn (if s.resetNLow then .inReset else .running) straps)

/-- PWRGOOD_DEASSERTED (R189): the bridge holds nothing and takes no request until power-on. -/
def execPwrgoodDeasserted (s : State) : Host.Outcome State Fault Refusal := .next (s.atPowerOn .off s.straps)

/-- RESET_N_FALLING_EDGE (R189): a bridge reset begins, or one in progress is extended. -/
def execResetNFallingEdge (s : State) : Host.Outcome State Fault Refusal :=
  let t := { s with resetNLow := true }
  .next (if s.power = .running then t.beginReset .resetPin else t)

/-- RESET_N_RISE (R189): the bridge reset ends. -/
def execResetNRise (straps : Straps) (s : State) : Host.Outcome State Fault Refusal :=
  let t := { s with resetNLow := false }
  .next (if s.power = .inReset ∧ s.resetNLow = true then t.endReset straps else t)

/-- BRIDGE_RESET (R189): accepted on the I2C path from any requester (R177, check 2) and not answered. -/
def execBridgeReset (path : MgmtPath) (s : State) : Host.Outcome State Fault Refusal :=
  .next (s.request path Req.bridgeReset fun t =>
    match path with
    | .i2c => (t.beginReset .resetRequest, .nothing)
    | .inBand _ => t.badRequest)

/-- BRIDGE_RESET_END (R189): a bridge reset that RESET_N does not hold ends of itself. -/
def execBridgeResetEnd (straps : Straps) (s : State) : Host.Outcome State Fault Refusal :=
  .next (if s.power = .inReset ∧ s.resetNLow = false then s.endReset straps else s)

end Sys2Proof.Machine
end

