-- ==== Sys2Proof/Machine/Relocations.lean ====
section
/-! DEFINITION. Commands that end a relocation (Chapter 7). -/

namespace Sys2Proof.Machine

/-- RELOCATION_COMMIT (R155): in FINISHING, when no tracker holds a source-side entry. -/
def execRelocationCommit (s : State) : Host.Outcome State Fault Refusal :=
  .next (s.whenRunning fun s =>
    match s.copyEngine with
    | .running r => if r.phase = .finishing ∧ s.hasSourceSide r.extent = false then s.commitRelocation r else s
    | _ => s)

/-- ABANDON_END (R161): in ABANDONING, with no pair in flight and no destination-side entry. -/
def execAbandonEnd (s : State) : Host.Outcome State Fault Refusal :=
  .next (s.whenRunning fun s =>
    match s.copyEngine with
    | .running r =>
      match r.phase with
      | .abandoning reason => if r.pairs = [] ∧ s.hasDestSide r.extent = false then s.endAbandon r reason else s
      | _ => s
    | _ => s)

/-- END_RECORD_POST (R157): a held end record posted when an unreserved place is free. -/
def execEndRecordPost (s : State) : Host.Outcome State Fault Refusal :=
  .next (s.whenRunning fun s =>
    match s.copyEngine with
    | .ending record => if s.placeFree then ({ s with copyEngine := .idle }).postRecord record else s
    | _ => s)

end Sys2Proof.Machine
end

