-- ==== Sys2Proof/Machine/Role.lean ====
section
/-! DEFINITION. Requests of the manager role (section 9.3) and the answer to a bad request (R198). -/

namespace Sys2Proof.Machine

/-- The HELD answer, naming the holder. -/
def State.heldReply (s : State) : State × Reply := (s, .now .held [s.holder.code])

/-- A CLAIM that its path may make (R178): a free role is granted, the holder's own is confirmed, another's is HELD. -/
def State.claimFor (s : State) (path : MgmtPath) : State × Reply :=
  if s.holder = .none then ({ s with holder := pathHolder path }, .status .ok)
  else if s.isHolder path then (s, .status .ok)
  else s.heldReply

/-- CLAIM (R178). -/
def execClaim (path : MgmtPath) (s : State) : Host.Outcome State Fault Refusal :=
  .next (s.request path Req.claim fun s =>
    match path with
    | .i2c => s.claimFor path
    | .inBand p =>
      if (s.port p).state ≠ .opened then (s, .status .wrongState)
      else if s.eligible.getLsbD p.val = false then (s, .status .notEligible)
      else s.claimFor path)

/-- RELEASE (R179). -/
def execRelease (path : MgmtPath) (s : State) : Host.Outcome State Fault Refusal :=
  .next (s.request path Req.release fun s => s.holderOnly path fun s => ({ s with holder := .none }, .status .ok))

/-- BREAK (R180): accepted on the I2C path alone; the answer names the port displaced,
and where none is its byte is a free value (log 23). -/
def execBreakRole (path : MgmtPath) (s : State) : Host.Outcome State Fault Refusal :=
  .next (s.request path Req.breakRole fun s =>
    match path with
    | .inBand _ => s.badRequest
    | .i2c =>
      match s.holder with
      | .port p => (({ s with holder := .i2c }).offerNotice p .roleLost, .now .ok [(Holder.port p).code])
      | .i2c => ({ s with fresh := s.fresh + 1 }, .now .ok [Config.nobodyDisplaced s.fresh])
      | .none => ({ s with holder := .i2c, fresh := s.fresh + 1 }, .now .ok [Config.nobodyDisplaced s.fresh]))

/-- The role after the eligibility set was written: freed when its port is no longer in the set (R181). -/
def Holder.withSet (h : Holder) (set : BitVec 4) : Holder :=
  match h with
  | .port p => if set.getLsbD p.val then .port p else .none
  | _ => h

/-- SET_ELIGIBLE (R181): on the I2C path alone, and only while the role is held. -/
def execSetEligible (path : MgmtPath) (value : Byte) (s : State) : Host.Outcome State Fault Refusal :=
  .next (s.request path Req.setEligible fun s =>
    if 15 < value.toNat then s.badRequest
    else match path with
      | .inBand _ => s.badRequest
      | .i2c =>
        if s.holder = .none then (s, .status .notHolder)
        else
          let set := value.truncate 4
          ({ s with eligible := set, holder := s.holder.withSet set }, .status .ok))

/-- MGMT_BAD_REQUEST (R198): a request that fails check 1 of R177 is answered BAD_REQUEST. -/
def execMgmtBadRequest (frame : MgmtFrame) (s : State) : Host.Outcome State Fault Refusal :=
  .next (if frameFieldsOk frame then s else s.request (framePath frame) (frameKind frame) fun s => s.badRequest)

end Sys2Proof.Machine
end

