-- ==== Sys2Proof/Machine/Dispatch.lean ====
section
/-! DEFINITION. One arm per command: a direct call of its meaning. -/

namespace Sys2Proof.Machine

/-- The effect of a command on everything but the queue of waiting commands. -/
def exec (i : Instr) (s : State) : Host.Outcome State Fault Refusal :=
  match i with
  | .powerOn straps => Sys2Proof.Machine.execPowerOn straps s
  | .pwrgoodDeasserted => Sys2Proof.Machine.execPwrgoodDeasserted s
  | .resetNFallingEdge => Sys2Proof.Machine.execResetNFallingEdge s
  | .resetNRise straps => Sys2Proof.Machine.execResetNRise straps s
  | .bridgeReset path => Sys2Proof.Machine.execBridgeReset path s
  | .partnerDetected p => Sys2Proof.Machine.execPartnerDetected p s
  | .trainingComplete p => Sys2Proof.Machine.execTrainingComplete p s
  | .trainingFailed p => Sys2Proof.Machine.execTrainingFailed p s
  | .linkLost p => Sys2Proof.Machine.execLinkLost p s
  | .bringUpTimerExpiry p => Sys2Proof.Machine.execBringUpTimerExpiry p s
  | .packetCrcDrop p bytes => Sys2Proof.Machine.execPacketCrcDrop p bytes s
  | .undefinedPacket p kind pkt => Sys2Proof.Machine.execUndefinedPacket p kind pkt s
  | .read p pkt => Sys2Proof.Machine.execRead p pkt s
  | .write p pkt => Sys2Proof.Machine.execWrite p pkt s
  | .wdata p pkt => Sys2Proof.Machine.execWdata p pkt s
  | .writeDataTimerExpiry p tag => Sys2Proof.Machine.execWriteDataTimerExpiry p tag s
  | .noticeAck p pkt => Sys2Proof.Machine.execNoticeAck p pkt s
  | .windowAccept p value => Sys2Proof.Machine.execWindowAccept p value s
  | .portOpen p value => Sys2Proof.Machine.execPortOpen p value s
  | .portClose p value => Sys2Proof.Machine.execPortClose p value s
  | .configWrite p access => Sys2Proof.Machine.execConfigWrite p access s
  | .closeComplete p => Sys2Proof.Machine.execCloseComplete p s
  | .admission c => Sys2Proof.Machine.execAdmission c s
  | .copyPairAdmission c => Sys2Proof.Machine.execCopyPairAdmission c s
  | .readComplete c p tag media => Sys2Proof.Machine.execReadComplete c p tag media s
  | .writeComplete c p tag part media => Sys2Proof.Machine.execWriteComplete c p tag part media s
  | .copyReadComplete c pair media => Sys2Proof.Machine.execCopyReadComplete c pair media s
  | .copyWriteComplete c pair => Sys2Proof.Machine.execCopyWriteComplete c pair s
  | .detectionEnd c slot0 slot1 slot2 slot3 => Sys2Proof.Machine.execDetectionEnd c slot0 slot1 slot2 slot3 s
  | .fillEnd c => Sys2Proof.Machine.execFillEnd c s
  | .channelFault c => Sys2Proof.Machine.execChannelFault c s
  | .confirmTimerExpiry => Sys2Proof.Machine.execConfirmTimerExpiry s
  | .drainTimerExpiry => Sys2Proof.Machine.execDrainTimerExpiry s
  | .handoverCommit => Sys2Proof.Machine.execHandoverCommit s
  | .create => Sys2Proof.Machine.execCreate s
  | .retire => Sys2Proof.Machine.execRetire s
  | .map => Sys2Proof.Machine.execMap s
  | .setShare => Sys2Proof.Machine.execSetShare s
  | .setWindow => Sys2Proof.Machine.execSetWindow s
  | .setRights => Sys2Proof.Machine.execSetRights s
  | .unmap => Sys2Proof.Machine.execUnmap s
  | .transfer => Sys2Proof.Machine.execTransfer s
  | .relocate => Sys2Proof.Machine.execRelocate s
  | .pendingNoticeReoffer => Sys2Proof.Machine.execPendingNoticeReoffer s
  | .relocationCommit => Sys2Proof.Machine.execRelocationCommit s
  | .abandonEnd => Sys2Proof.Machine.execAbandonEnd s
  | .endRecordPost => Sys2Proof.Machine.execEndRecordPost s
  | .readStatus path => Sys2Proof.Machine.execReadStatus path s
  | .readExtent path extent => Sys2Proof.Machine.execReadExtent path extent s
  | .readLayout path => Sys2Proof.Machine.execReadLayout path s
  | .readPort path port clear => Sys2Proof.Machine.execReadPort path port clear s
  | .readChannel path channel => Sys2Proof.Machine.execReadChannel path channel s
  | .readErrors path => Sys2Proof.Machine.execReadErrors path s
  | .peekCompletion path => Sys2Proof.Machine.execPeekCompletion path s
  | .submit path operands => Sys2Proof.Machine.execSubmit path operands s
  | .cancel path id => Sys2Proof.Machine.execCancel path id s
  | .popCompletion path => Sys2Proof.Machine.execPopCompletion path s
  | .abortRelocation path extent => Sys2Proof.Machine.execAbortRelocation path extent s
  | .clearErrors path selector => Sys2Proof.Machine.execClearErrors path selector s
  | .clearInterrupted path => Sys2Proof.Machine.execClearInterrupted path s
  | .setLayout path index limit mode => Sys2Proof.Machine.execSetLayout path index limit mode s
  | .clearLayout path => Sys2Proof.Machine.execClearLayout path s
  | .poolCommit path => Sys2Proof.Machine.execPoolCommit path s
  | .poolTeardown path => Sys2Proof.Machine.execPoolTeardown path s
  | .channelOnline path channel => Sys2Proof.Machine.execChannelOnline path channel s
  | .channelOffline path channel => Sys2Proof.Machine.execChannelOffline path channel s
  | .portEnable path port => Sys2Proof.Machine.execPortEnable path port s
  | .portDisable path port => Sys2Proof.Machine.execPortDisable path port s
  | .portReset path port => Sys2Proof.Machine.execPortReset path port s
  | .setOffer path port readOffer writeOffer => Sys2Proof.Machine.execSetOffer path port readOffer writeOffer s
  | .setTimers path confirm drain bringUp writeData => Sys2Proof.Machine.execSetTimers path confirm drain bringUp writeData s
  | .setPreserve path value => Sys2Proof.Machine.execSetPreserve path value s
  | .claim path => Sys2Proof.Machine.execClaim path s
  | .release path => Sys2Proof.Machine.execRelease path s
  | .breakRole path => Sys2Proof.Machine.execBreakRole path s
  | .setEligible path value => Sys2Proof.Machine.execSetEligible path value s
  | .mgmtBadRequest frame => Sys2Proof.Machine.execMgmtBadRequest frame s
  | .bridgeResetEnd straps => Sys2Proof.Machine.execBridgeResetEnd straps s

end Sys2Proof.Machine
end

