-- ==== Sys2Proof/Machine/Receive.lean ====
section
/-! DEFINITION. From received bytes to commands: the routing of a packet by its kind code (R50, R193, Tables 65 and 66), and
the reading of a request frame or a MGMT_REQUEST body (R197, Table 68). The bytes are a sender's; the commands they name
wait in the queue like any other. -/

namespace Sys2Proof.Machine

/-! ## Requests (R197, Table 68) -/

/-- The operand byte at an offset. -/
def opByte (ops : List Byte) (i : Nat) : Byte := ops.getD i 0

/-- The two-byte operand at an offset, least significant byte first (R192). -/
def opWord (ops : List Byte) (i : Nat) : BitVec 16 := BitVec.ofNat 16 (ofLe ((ops.drop i).take 2))

/-- The operands of SUBMIT in the order of Table 68. -/
def submitOperands (ops : List Byte) : SubmitOperands :=
  { kind := opByte ops 0, presence := opWord ops 1, extent := opByte ops 3, port := opByte ops 4,
    secondPort := opByte ops 5, windowBase := opWord ops 6, rights := opByte ops 8, poolBase := opWord ops 9,
    length := opWord ops 11, shareMode := opByte ops 13, windowSize := opWord ops 14, confirm := opByte ops 16,
    force := opByte ops 17 }

/-- The request that a kind code and its operand bytes name; `none` for a code that Table 68 does not have. -/
def requestCommand (path : MgmtPath) (kind : Byte) (ops : List Byte) : Option Instr :=
  match kind.toNat with
  | 0x10 => some (.readStatus path)
  | 0x11 => some (.readExtent path (opByte ops 0))
  | 0x12 => some (.readLayout path)
  | 0x13 => some (.readPort path (opByte ops 0) (opByte ops 1))
  | 0x14 => some (.readChannel path (opByte ops 0))
  | 0x15 => some (.readErrors path)
  | 0x16 => some (.peekCompletion path)
  | 0x20 => some (.submit path (submitOperands ops))
  | 0x21 => some (.cancel path (opWord ops 0))
  | 0x22 => some (.popCompletion path)
  | 0x23 => some (.abortRelocation path (opByte ops 0))
  | 0x24 => some (.clearErrors path (opByte ops 0))
  | 0x25 => some (.clearInterrupted path)
  | 0x26 => some (.setLayout path (opByte ops 0) (opWord ops 1) (opByte ops 3))
  | 0x27 => some (.clearLayout path)
  | 0x28 => some (.poolCommit path)
  | 0x29 => some (.poolTeardown path)
  | 0x2A => some (.channelOnline path (opByte ops 0))
  | 0x2B => some (.channelOffline path (opByte ops 0))
  | 0x2C => some (.portEnable path (opByte ops 0))
  | 0x2D => some (.portDisable path (opByte ops 0))
  | 0x2E => some (.portReset path (opByte ops 0))
  | 0x2F => some (.setOffer path (opByte ops 0) (opByte ops 1) (opByte ops 2))
  | 0x30 => some (.setTimers path (opWord ops 0) (opWord ops 2) (opByte ops 4) (opWord ops 5))
  | 0x31 => some (.setPreserve path (opByte ops 0))
  | 0x38 => some (.claim path)
  | 0x39 => some (.release path)
  | 0x40 => some (.breakRole path)
  | 0x41 => some (.setEligible path (opByte ops 0))
  | 0x42 => some (.bridgeReset path)
  | _ => none

/-- The kind byte of a received request. -/
def frameCode : MgmtFrame → Byte
  | .i2c bytes => opByte bytes 0
  | .inBand _ pkt => opByte pkt.body 0

/-- The operand bytes of a received request: N of them after the length byte of an I2C frame, the rest of an in-band
body (R197). -/
def frameOperands : MgmtFrame → List Byte
  | .i2c bytes => (bytes.drop 2).take (opByte bytes 1).toNat
  | .inBand _ pkt => pkt.body.drop 1

/-- The command that a received request names: its own, or MGMT_BAD_REQUEST when it fails check 1 (R198). -/
def frameCommand (frame : MgmtFrame) : Instr :=
  if frameFieldsOk frame then
    (requestCommand (framePath frame) (frameCode frame) (frameOperands frame)).getD (.mgmtBadRequest frame)
  else .mgmtBadRequest frame

/-! ## Packets (R193, Tables 65 and 66) -/

/-- The packet after its kind byte: the length field, and the body that stands before the four CRC bytes. -/
def rawPacket (bytes : List Byte) : RawPacket :=
  { len := opByte bytes 1, body := (bytes.drop 2).take (bytes.length - 6) }

/-- The command of a configuration write: the words that a write may name have rows of their own (R196). -/
def configCommand (p : PortId) (word : Byte) (value : BitVec 64) : Instr :=
  if word = Word.windowAccept then .windowAccept p value
  else if word = Word.portOpen then .portOpen p value
  else if word = Word.portClose then .portClose p value
  else .configWrite p (.write word value)

/-- The command that a packet received on port p names: dropped for its CRC, or routed by its kind code (R49, R50,
R193). -/
def packetCommand (p : PortId) (bytes : List Byte) : Instr :=
  let kind := opByte bytes 0
  let pkt := rawPacket bytes
  if crcBad bytes then .packetCrcDrop p bytes
  else if undefinedInbound kind pkt then .undefinedPacket p kind pkt
  else match kind.toNat with
    | 0x01 => .read p pkt
    | 0x02 => .write p pkt
    | 0x03 => .wdata p pkt
    | 0x04 => .noticeAck p pkt
    | 0x05 => frameCommand (.inBand p pkt)
    | 0x06 => .configWrite p (.read (opByte pkt.body 0))
    | _ => configCommand p (opByte pkt.body 0) (BitVec.ofNat 64 (ofLe ((pkt.body.drop 1).take 8)))

/-! ## Arrival -/

/-- A packet that arrives on port p: the command it names waits behind those that wait already. -/
def State.receivePacket (s : State) (p : PortId) (bytes : List Byte) : State :=
  { s with pending := s.pending ++ [packetCommand p bytes] }

/-- A frame written to the address of the I2C target. Whether the target acknowledges it is decided when its turn
comes (State.i2cTakesWrite, R174). -/
def State.receiveI2cFrame (s : State) (bytes : List Byte) : State :=
  { s with pending := s.pending ++ [frameCommand (.i2c bytes)] }

end Sys2Proof.Machine
end

