-- ==== Sys2Proof/WellFormed.lean ====
section
/-! DEFINITION. Which commands are well formed: operands that make the row's event the one it names. An ill-formed
command has no effect (log 1), but a CONFIG_WRITE of a word that has a row of its own is answered as that row answers it
(log 10). -/

namespace Sys2Proof

open Sys2Proof.Machine

/-- A CRC drop is of a packet that fails the CRC check (R49, R193). -/
def wfDrop (bytes : List Byte) : Bool := crcBad bytes

/-- An undefined packet is of a kind that Table 65 does not give inbound, or a configuration packet of bad length
(R50, R194). -/
def wfUndefined (kind : Byte) (pkt : RawPacket) : Bool := undefinedInbound kind pkt

/-- CONFIG_WRITE names no word whose write has a row of its own (R196). -/
def wfConfig : ConfigAccess → Bool
  | .read _ => true
  | .write word _ => !(decide (word = 1) || decide (word = 2) || decide (word = 3))

/-- A bad request fails check 1 (R198). -/
def wfBadRequest (frame : MgmtFrame) : Bool := !frameFieldsOk frame

/-- The well-formed commands. The operands of every other row may take any value: the row's own rules decide it. -/
def Instr.wf : Instr → Bool
  | .packetCrcDrop _ bytes => wfDrop bytes
  | .undefinedPacket _ kind pkt => wfUndefined kind pkt
  | .configWrite _ access => wfConfig access
  | .mgmtBadRequest frame => wfBadRequest frame
  | _ => true

end Sys2Proof
end

