-- ==== Sys2Proof/Safety.lean ====
section
/-! DEFINITION. What the manual says holds in every state of the bridge: the invariants that its steps keep. Each is a
conjunction over the state alone. -/

namespace Sys2Proof.Machine

/-- Every channel's contents are in canonical form: the model's own form, of which no rule speaks (log 40). -/
def State.memoryLaw (s : State) : Prop := ∀ c : ChannelId, (s.channel c).memory.wf = true

/-- R178: a port holds the manager role only while it is OPEN. -/
def State.roleLaw (s : State) : Prop := ∀ p : PortId, s.holder = .port p → (s.port p).state = .opened

/-- R114, R140, R165: the change queue holds at most 8 records, the completion queue at most 16 with the reservation,
a notice queue at most 8. -/
def State.queueLaw (s : State) : Prop :=
  s.changeQueue.length ≤ 8 ∧ s.placesTaken ≤ 16 ∧ ∀ p : PortId, (s.noticeQueue p).notices.length ≤ 8

/-- Link Port n's credits (Table 17, Table 18, R62): none outside OPEN and CLOSING, and never above the offers. -/
def LinkPort.creditLaw (x : LinkPort) : Prop :=
  (x.state ≠ .opened → x.state ≠ .closing → x.grantedReads = 0 ∧ x.grantedWrites = 0) ∧
  x.grantedReads ≤ x.readOffer ∧ x.grantedWrites ≤ x.writeOffer ∧ x.readOffer ≤ 24 ∧ x.writeOffer ≤ 16

/-- R63, R47: a tracker's counted entries stay within the port's grants, an OPEN or CLOSING port has no retiring entry,
and the tracker holds at most 40 entries. -/
def trackerLaw (x : LinkPort) (l : List Entry) : Prop :=
  countedOf .read l ≤ x.grantedReads ∧ countedOf .write l ≤ x.grantedWrites ∧
  (x.state = .opened ∨ x.state = .closing → retiringOf l = 0) ∧ l.length ≤ 40

/-- The credits and trackers of all ports. -/
def State.creditLaw (s : State) : Prop :=
  ∀ p : PortId, (s.port p).creditLaw ∧ trackerLaw (s.port p) (s.tracker p)

/-- R63: two counted entries of one tracker and one kind hold different tags. -/
def tagsDistinct (l : List Entry) : Prop :=
  l.Pairwise (fun a b => a.counted = true → b.counted = true → a.kind = b.kind → a.opTag ≠ b.opTag)

def State.tagLaw (s : State) : Prop := ∀ p : PortId, tagsDistinct (s.tracker p)

/-- R8: no EXCLUSIVE extent has two READ_WRITE mappings, and none will have by the commit of the active handover
(R123). -/
def State.shareLaw (s : State) : Prop :=
  (∀ x : ExtentId, ∀ b, (s.extent x).body? = some b → b.shareLaw = true) ∧
  (∀ h, s.active = some h → ∀ b, (s.extent h.extent).body? = some b → (h.kind.apply h.losing b).shareLaw = true)

/-- A present mapping of port p to another extent shares a window segment with those from `wb` up to `wb + length`
(R6). -/
def State.windowTaken (s : State) (x : ExtentId) (p : PortId) (wb length : Nat) : Prop :=
  ∃ seg, wb ≤ seg ∧ seg < wb + length ∧
    ∃ y : ExtentId, y ≠ x ∧ ∃ b m, (s.extent y).body? = some b ∧ b.mapping[p] = some m ∧
      m.windowBase ≤ seg ∧ seg < m.windowBase + b.length

/-- R6, of one extent with the fields `b`: each of its mappings lies below the window size of its port, and shares no window
segment with a mapping of another extent at that port. -/
def State.windowFits (s : State) (x : ExtentId) (b : ExtentBody) : Prop :=
  ∀ (p : PortId) (m : Mapping), b.mapping[p] = some m →
    m.windowBase + b.length ≤ (s.port p).windowSize ∧ ¬ s.windowTaken x p m.windowBase b.length

/-- R6: the windows of every extent, and those of the extent of the active handover as they will stand at its commit
(R123). -/
def State.windowLaw (s : State) : Prop :=
  (∀ x : ExtentId, ∀ b, (s.extent x).body? = some b → s.windowFits x b) ∧
  (∀ h, s.active = some h → ∀ b, (s.extent h.extent).body? = some b →
    s.windowFits h.extent (h.kind.apply h.losing b))

/-- R165: the sequences of a notice queue are consecutive modulo 256 in order of entry, up to the next sequence. -/
def NoticeQueue.ordered (q : NoticeQueue) : Prop :=
  q.notices.map (·.sequence) = (List.range q.notices.length).map (fun i => q.next - BitVec.ofNat 8 (q.notices.length - i))

def State.sequenceLaw (s : State) : Prop := ∀ p : PortId, (s.noticeQueue p).ordered

/-- R95, R96: at most 4 operations of an origin in its reserved places and at most 12 in the shared places of a work
queue, so at most 32 in it. -/
def Channel.placeLaw (x : Channel) : Prop := (∀ pos : Position, x.reservedUsed pos ≤ 4) ∧ x.sharedUsed ≤ 12

def State.placeLaw (s : State) : Prop := ∀ c : ChannelId, (s.channel c).placeLaw

/-- R146 to R150: at most 8 pairs in flight, their numbers distinct, and the cursor within the length. -/
def State.copyLaw (s : State) : Prop :=
  ∀ r, s.copyEngine = .running r →
    r.pairs.length ≤ 8 ∧ r.pairs.Pairwise (fun a b => a.number ≠ b.number) ∧ r.cursor ≤ r.lengthLines

/-- R3, R10: the CHANGING extent is the one of the active handover and holds its change id, the handover's change is the
head of the queue, and a handover in CONFIRM has its losing port OPEN (R126, R129). -/
def State.changingLaw (s : State) : Prop :=
  (∀ h, s.active = some h →
    s.changeQueue.head? = some h.change ∧ (∃ b, s.extent h.extent = .changing b h.change.id) ∧
    (h.phase = .confirm → (s.port h.losing).state = .opened)) ∧
  (∀ x b id, s.extent x = .changing b id → ∃ h, s.active = some h ∧ h.extent = x)

/-- R3, R10, R147: the RELOCATING extent is the one of the relocation record, which holds its base and its length. -/
def State.relocatingLaw (s : State) : Prop :=
  (∀ r, s.copyEngine = .running r →
    ∃ b, s.extent r.extent = .relocating b ∧ b.poolBase = r.sourceBase ∧
      b.length * Config.segmentLines = r.lengthLines) ∧
  (∀ x b, s.extent x = .relocating b → ∃ r, s.copyEngine = .running r ∧ r.extent = x)

/-- R3: the laws of the transient states of the Extent Table together. -/
def State.extentLaw (s : State) : Prop := s.changingLaw ∧ s.relocatingLaw

/-- R4: no pool segment belongs to two extents, or to an extent and the target range of the relocation, and all of them
lie inside the pool. -/
def State.segmentLaw (s : State) : Prop :=
  (∀ x y : ExtentId, ∀ a b, x ≠ y → (s.extent x).body? = some a → (s.extent y).body? = some b →
    rangesShare a.poolBase a.length b.poolBase b.length = false) ∧
  (∀ x : ExtentId, ∀ b, (s.extent x).body? = some b → b.poolBase + b.length ≤ s.layout.size) ∧
  (∀ r, s.copyEngine = .running r →
    r.targetBase + r.segments ≤ s.layout.size ∧
    ∀ x : ExtentId, ∀ b, (s.extent x).body? = some b → rangesShare b.poolBase b.length r.targetBase r.segments = false)

/-- R3 and R4 together; a relocation's commit needs the record's link. -/
def State.placementLaw (s : State) : Prop := s.extentLaw ∧ s.segmentLaw

/-! ## Words of the statements -/

/-- A request on this path is taken: the bridge runs, and the I2C buffer is not IN_PROGRESS, or the port receives
packets and its slot is free (R174, R175). -/
def State.receives (s : State) (path : MgmtPath) : Prop := s.reception path = .taken

/-- The path's request is taken, and the path holds the manager role (R177, check 3). -/
def State.manages (s : State) (path : MgmtPath) : Prop := s.receives path ∧ s.holder = pathHolder path

/-- Port p receives packets: the bridge runs and the port is AWAIT_OPEN, OPEN or CLOSING (R49, R50). -/
def State.hears (s : State) (p : PortId) : Prop :=
  s.power = .running ∧
    ((s.port p).state = .awaitOpen ∨ (s.port p).state = .opened ∨ (s.port p).state = .closing)

/-- An entry whose operation may complete: AT_CHANNEL on a port that receives packets, or RETIRING
(R80, R88). -/
def State.completes (s : State) (p : PortId) (e : Entry) : Prop :=
  (e.state = .atChannel ∧ s.hears p) ∨ (e.state = .retiring ∧ s.power = .running)

/-- What a completed entry is sent: the response, or nothing when it is RETIRING (R88). -/
def Entry.sent (e : Entry) (pkt : OutPacket) : List OutPacket := if e.state = .retiring then [] else [pkt]

/-- The state with a response returned on a path (R174, R175). -/
def State.answered (s : State) (path : MgmtPath) (kind : Byte) (st : MgmtStatus) (data : List Byte) : State :=
  s.respond path { kind := kind, status := st, data := data }

/-- Every block holds its power-on values (Tables 14, 23, 29, 36, 46, 53, 55, 64, R21). -/
def State.powerOnValues (t : State) : Prop :=
  t.holder = .none ∧ t.i2c = .empty ∧
  (∀ x : ExtentId, t.extent x = .free) ∧
  t.layout = { pool := .offline, ranges := [], preserve := false } ∧
  (∀ p : PortId, (t.port p).state = .down ∧ (t.port p).bringUpTimer = none ∧ (t.port p).windowSize = 0 ∧
    (t.port p).readOffer = 24 ∧ (t.port p).writeOffer = 16 ∧ (t.port p).acceptance = none ∧
    (t.port p).grantedReads = 0 ∧ (t.port p).grantedWrites = 0 ∧ (t.port p).crcDrops = 0 ∧
    (t.port p).protocolErrors = 0 ∧ (t.port p).orphanData = 0 ∧ (t.port p).error = none ∧ (t.port p).outbox = [] ∧
    t.tracker p = [] ∧ t.noticeQueue p = { notices := [], next := 0, lost := 0 } ∧ t.slot p = none) ∧
  (∀ c : ChannelId, (t.channel c).state = .offline ∧ (t.channel c).capacity = 0 ∧
    (t.channel c).slots = Vector.replicate 4 none ∧ (t.channel c).fillKind = .zero ∧
    (t.channel c).queue = [] ∧ (t.channel c).lastWinner = 4 ∧ (t.channel c).firstError = none ∧
    (t.channel c).furtherErrors = 0 ∧ (t.channel c).correctable = 0 ∧
    (t.channel c).memory = Memory.undefinedContents) ∧
  t.changeQueue = [] ∧ t.nextChangeId = 1 ∧ t.active = none ∧ t.completions = [] ∧ t.interrupted = none ∧
  t.copyEngine = .idle ∧ t.limits = { confirm := 1000, drain := 100, bringUp := 20, writeData := 50 } ∧
  t.lastReset = { cause := .powerOn, preserved := false } ∧ t.alertAsserted = false

/-- The head change is `ch` and may start (R116). -/
def State.starts (s : State) (ch : ChangeRecord) : Prop :=
  s.power = .running ∧ s.active = none ∧ s.placeFree = true ∧ s.changeQueue.head? = some ch

/-- A record is ACTIVE with the fields `b`. -/
def State.activeAs (s : State) (x : ExtentId) (b : ExtentBody) : Prop := s.extent x = .active b

/-- A Link Port but for the packets it sends. -/
def LinkPort.quiet (x : LinkPort) : LinkPort := { x with outbox := [] }

/-- What a map change leaves alone: the trackers, the channels, the layout, the ports but for what they send, the
management state, and every extent record but one. -/
def State.sameBeside (s t : State) (x : Option ExtentId) : Prop :=
  t.power = s.power ∧ t.resetNLow = s.resetNLow ∧ t.straps = s.straps ∧ t.pending = s.pending ∧
  t.trackers = s.trackers ∧ t.channels = s.channels ∧ t.layout = s.layout ∧
  t.limits = s.limits ∧ t.holder = s.holder ∧ t.eligible = s.eligible ∧ t.i2c = s.i2c ∧ t.slots = s.slots ∧
  t.interrupted = s.interrupted ∧ t.lastReset = s.lastReset ∧ t.nextChangeId = s.nextChangeId ∧
  (∀ p : PortId, (t.port p).quiet = (s.port p).quiet) ∧
  (∀ y : ExtentId, x ≠ some y → t.extent y = s.extent y)

/-- The head change ended with a record: off the queue, nothing active, the record posted last (R125, R139). -/
def State.endedWith (s t : State) (r : CompletionRecord) : Prop :=
  t.changeQueue = s.changeQueue.tail ∧ t.active = none ∧ t.completions = s.completions ++ [r]

/-- A queue that is offered notices one after another, none of them a PENDING notice, and the notices that enter it: each
enters while fewer than 8 are held, with the next sequence and the lost count, and is counted lost in a full queue
(R166, R167). -/
def NoticeQueue.takes : NoticeQueue → List NoticeBody → NoticeQueue × List Notice
  | q, [] => (q, [])
  | q, body :: rest =>
    if q.notices.length < 8 then
      let n : Notice := { sequence := q.next, body := body, lostBefore := q.lost }
      let result := NoticeQueue.takes { notices := q.notices ++ [n], next := q.next + 1, lost := 0 } rest
      (result.1, n :: result.2)
    else NoticeQueue.takes { q with lost := satIncr 255 q.lost } rest

/-- The COMPLETION_POSTED that a record's posting sends to port p: to the port that holds the role, with the record's
change id when not 0 and its extent when it has one (R140, R187). -/
def State.postedTo (s : State) (p : PortId) : Option CompletionRecord → List NoticeBody
  | none => []
  | some r =>
    if s.holder = .port p then [.completionPosted (if r.changeId = 0 then none else some r.changeId) r.extent] else []

/-- The notices of a step that are addressed to port p. -/
def noticesTo (p : PortId) (notices : List (PortId × NoticeBody)) : List NoticeBody :=
  (notices.filter (fun x => decide (x.1 = p))).map (·.2)

/-- What port p makes of a step that offers notices and posts a record: while OPEN its queue takes the notices addressed
to it in their order, the record's COMPLETION_POSTED before or after them (R167 allows either), and `sent` are the packets
handed to the port; otherwise its queue is as it was and it is handed none. -/
def State.takesNotices (s t : State) (p : PortId) (notices : List (PortId × NoticeBody))
    (record : Option CompletionRecord) (sent : List OutPacket) : Prop :=
  ((s.port p).state ≠ .opened → t.noticeQueue p = s.noticeQueue p ∧ sent = []) ∧
  ((s.port p).state = .opened → ∃ bodies,
    (bodies = s.postedTo p record ++ noticesTo p notices ∨ bodies = noticesTo p notices ++ s.postedTo p record) ∧
    t.noticeQueue p = ((s.noticeQueue p).takes bodies).1 ∧
    sent = ((s.noticeQueue p).takes bodies).2.map .notice)

/-- A step hands every port its notices, and nothing else (R125, R135, R169). -/
def State.sendsNotices (s t : State) (notices : List (PortId × NoticeBody)) (record : Option CompletionRecord) : Prop :=
  ∀ p : PortId, ∃ sent, s.takesNotices t p notices record sent ∧ (t.port p).outbox = (s.port p).outbox ++ sent

/-- The head change ended with a record, in one step with the notices of its end. -/
def State.endedTelling (s t : State) (r : CompletionRecord) (notices : List (PortId × NoticeBody)) : Prop :=
  s.endedWith t r ∧ s.sendsNotices t notices (some r)

/-- The notices of a handover's commit (Table 42), with the generation after it. -/
def HandoverKind.tells (k : HandoverKind) (losing : PortId) (x : ExtentId) (id : Nat) (g : Generation)
    (notices : List (PortId × NoticeBody)) : Prop :=
  (k = .unmap → notices = [(losing, .revoked x id g)]) ∧
  (k = .downgrade → notices = [(losing, .downgraded x id g)]) ∧
  (∀ q wb r, k = .transfer q wb r → notices = [(losing, .revoked x id g), (q, .mapped x id g wb r)])

/-- The PENDING notice of a handover (Table 42), with the current generation. -/
def HandoverKind.warns (k : HandoverKind) (x : ExtentId) (id : Nat) (g : Generation) (body : NoticeBody) : Prop :=
  (k = .downgrade → body = .pendingDowngrade x id g) ∧ (k ≠ .downgrade → body = .pendingRevoke x id g)

/-- The notices of a rollback: RESTORED to the losing port when a PENDING notice was sent (R136). -/
def Handover.restores (h : Handover) (g : Generation) (notices : List (PortId × NoticeBody)) : Prop :=
  (∀ sq, h.pendingNotice = .sent sq → notices = [(h.losing, .restored h.extent h.change.id g)]) ∧
  ((∀ sq, h.pendingNotice ≠ .sent sq) → notices = [])

/-- The completion record of a change on an extent (Table 43). -/
def extentRecord (ch : ChangeRecord) (x : ExtentId) (outcome : RecordOutcome) (g : Option Generation) : CompletionRecord :=
  { changeId := ch.id, kind := ch.op.recordKind, extent := some x, port := none, submitter := some ch.submitter,
    outcome := outcome, generationAfter := g }

/-- What a handover's commit makes of the record's fields: one mapping gone, its rights lowered, or moved to another port,
and the generation one further (R135). -/
def Handover.commits (h : Handover) (b b' : ExtentBody) : Prop :=
  b'.generation = b.generation + 1 ∧ b'.poolBase = b.poolBase ∧ b'.length = b.length ∧ b'.share = b.share ∧
  (h.kind = .unmap → b'.mapping = b.mapping.set h.losing none) ∧
  (∀ m, h.kind = .downgrade → b.mapping[h.losing] = some m →
    b'.mapping = b.mapping.set h.losing (some { m with rights := .read })) ∧
  (∀ q wb r, h.kind = .transfer q wb r →
    b'.mapping = (b.mapping.set h.losing none).set q (some { windowBase := wb, rights := r }))

/-- The entries that a force abort removes: in WAIT_DATA or WAIT_CHANNEL, of the extent, and for a downgrade the writes
(R86). -/
def Handover.forceTakes (h : Handover) (e : Entry) : Bool :=
  (decide (e.state = .waitData) || decide (e.state = .waitChannel)) && decide (e.extent = h.extent) &&
    (decide (h.kind ≠ .downgrade) || decide (e.kind = .write))

/-! ## Lines -/

/-- A line after a WRITE_PARTIAL of good data: the bytes whose mask bit is set are the write's, the others as before
(R104). -/
def mergedBytes (mask : ByteMask) (d old new : LineData) : Prop :=
  ∀ i : Nat, i < 64 → new.extractLsb' (8 * i) 8 =
    if mask.getLsbD i then d.extractLsb' (8 * i) 8 else old.extractLsb' (8 * i) 8

/-- An UNCORRECTABLE outcome on channel c noted by the channel: it fills the empty record with the line, the segment and
the origin, and otherwise adds 1 to the further errors (R110). -/
def State.notesError (s t : State) (c : ChannelId) (line : Nat) (origin : Position) : Prop :=
  ((s.channel c).firstError = none → (t.channel c).firstError =
    some (.uncorrectable line (s.layout.segmentOfLine c line) origin)) ∧
  ((s.channel c).firstError ≠ none → (t.channel c).firstError = (s.channel c).firstError ∧
    (t.channel c).furtherErrors = satIncr 255 (s.channel c).furtherErrors)

/-- Nothing noted in the error record of channel c. -/
def State.sameErrors (s t : State) (c : ChannelId) : Prop :=
  (t.channel c).firstError = (s.channel c).firstError ∧ (t.channel c).furtherErrors = (s.channel c).furtherErrors

/-! ## A channel fault -/

/-- The parts of an admitted DUAL entry after the abort of its operations on a channel: what the source part has recorded,
and whether the destination part is done (R82, R107). -/
def Entry.partsAfterFault (c : ChannelId) (src dst : Target) (e : Entry) : Option PartOutcome × Bool :=
  (if e.sourcePart = none ∧ src.channel = c then some .aborted else e.sourcePart, e.destPart || decide (dst.channel = c))

/-- A tracker entry after the fault of a channel (R83, R88): gone when its only target, or its source target while it
waits, is on the channel; a waiting DUAL entry loses its destination there; an admitted one leaves when both its parts
are done. -/
def Entry.afterFault (c : ChannelId) (e : Entry) : Option Entry :=
  match e.resolution with
  | .source a => if a.channel = c then none else some e
  | .dest a => if a.channel = c then none else some e
  | .dual a b =>
    if e.state = .waitData ∨ e.state = .waitChannel then
      if a.channel = c then none
      else if b.channel = c then some { e with resolution := .source a }
      else some e
    else match e.partsAfterFault c a b with
      | (some _, true) => none
      | (source, dest) => some { e with sourcePart := source, destPart := dest }

/-- What an entry is answered at the fault of a channel (R82, R83); a RETIRING entry is answered nothing (R88). -/
def Entry.faultAnswer (c : ChannelId) (e : Entry) : Option OutPacket :=
  if e.state = .retiring then none
  else match e.resolution with
    | .source a => if a.channel = c then some (e.abort .channelDown) else none
    | .dest a => if a.channel = c then some (e.abort .channelDown) else none
    | .dual a b =>
      if e.state = .waitData ∨ e.state = .waitChannel then
        if a.channel = c then some (e.abort .channelDown) else none
      else match e.partsAfterFault c a b with
        | (some .done, true) => some (.wrAck e.opTag .done e.generation)
        | (some .linePoisoned, true) => some (.wrAck e.opTag .linePoisoned e.generation)
        | (some .aborted, true) => some (.wrAbort e.opTag .channelDown (some e.generation))
        | _ => none

/-- A pair has its COPY_READ at a channel. -/
def PairRecord.readsAt (x : PairRecord) (c : ChannelId) : Bool :=
  match x.form with
  | .pair a .outstanding => decide (a.channel = c)
  | _ => false

/-- A pair has its COPY_WRITE at a channel. -/
def PairRecord.writesAt (x : PairRecord) (c : ChannelId) : Bool :=
  decide (x.dst.channel = c) && (decide (x.writePart = .placeholder) || decide (x.writePart = .supplied))

/-- A pair whose placeholder, at the other channel, receives the poison marker at the fault of a channel (R152). -/
def PairRecord.losesRead (x : PairRecord) (c : ChannelId) : Bool :=
  x.readsAt c && decide (x.dst.channel ≠ c) && decide (x.writePart = .placeholder)

/-- A pair's parts after the fault of a channel (R152). -/
def PairRecord.faulted (c : ChannelId) (x : PairRecord) : PairRecord :=
  { x with
      form := match x.form with
        | .pair a .outstanding => .pair a (if a.channel = c then .aborted else .outstanding)
        | form => form
      writePart := if x.writesAt c then .aborted else if x.losesRead c then .supplied else x.writePart }

/-- Some segment of the relocation's target range has channel c in its set of channels (R159). -/
def State.targetOn (s : State) (r : Relocation) (c : ChannelId) : Prop :=
  ∃ seg, r.targetBase ≤ seg ∧ seg < r.targetBase + r.lengthLines / 4194304 ∧ s.layout.segmentOn seg c = true

/-! ## Validation of changes (Table 38) -/

/-- The first condition that holds gives its reason; where none holds there is no reason (R117). -/
def decides : List (Prop × RejectReason) → Option RejectReason → Prop
  | [], outcome => outcome = none
  | (condition, reason) :: rest, outcome =>
    (condition → outcome = some reason) ∧ (¬ condition → decides rest outcome)

/-- Some pool segment from `base` up to `base + length` is occupied, by an extent or by the target range of the relocation
(R4). -/
def State.occupied (s : State) (base length : Nat) : Prop :=
  ∃ seg, base ≤ seg ∧ seg < base + length ∧
    ((∃ x : ExtentId, ∃ b, (s.extent x).body? = some b ∧ b.poolBase ≤ seg ∧ seg < b.poolBase + b.length) ∨
      ∃ r, s.copyEngine = .running r ∧ r.targetBase ≤ seg ∧ seg < r.targetBase + r.lengthLines / 4194304)

/-- Some segment from `base` up to `base + length` has a FAULTED channel in its set of channels (R34). -/
def State.faultedUnder (s : State) (base length : Nat) : Prop :=
  ∃ seg, base ≤ seg ∧ seg < base + length ∧
    ∃ c : ChannelId, (s.channel c).state = .faulted ∧ s.layout.segmentOn seg c = true

/-- Two ports hold READ_WRITE. -/
def twoWriters (mapping : Vector (Option Mapping) 4) : Prop :=
  ∃ p q : PortId, p ≠ q ∧ ∃ m n : Mapping, mapping[p] = some m ∧ mapping[q] = some n ∧
    m.rights = .readWrite ∧ n.rights = .readWrite

/-! ## The layout (R25, R28) -/

/-- Lower bound of range i: the limit of the range before it, 0 for the first (R25). -/
def rangeLower (l : List LayoutRange) (i : Nat) : Nat :=
  match i with
  | 0 => 0
  | j + 1 => (l[j]?.map (·.limit)).getD 0

/-- The segments that range i takes from channel c: its length for its own channel, half of it for BOTH (R28). -/
def rangeTakes (l : List LayoutRange) (c : ChannelId) (i : Nat) : Nat :=
  match l[i]? with
  | none => 0
  | some r =>
    if r.mode = .both then (r.limit - rangeLower l i) / 2
    else if (r.mode = .ch0 ∧ c = 0) ∨ (r.mode = .ch1 ∧ c = 1) then r.limit - rangeLower l i
    else 0

/-- The running total of channel c before range n (R28). -/
def channelTotal (l : List LayoutRange) (c : ChannelId) (n : Nat) : Nat := ((List.range n).map (rangeTakes l c)).sum

/-- A range names channel c: BOTH, or the channel's own mode (Table 13, check 5). -/
def namesChannel (l : List LayoutRange) (c : ChannelId) : Prop :=
  ∃ r ∈ l, r.mode = .both ∨ (r.mode = .ch0 ∧ c = 0) ∨ (r.mode = .ch1 ∧ c = 1)

/-- The first n ranges pass check 3 of Table 13: each limit greater than the one before it. -/
def limitsRise (l : List LayoutRange) (n : Nat) : Prop :=
  ∀ i, i < n → ∀ r, l[i]? = some r → rangeLower l i < r.limit

/-- The first n ranges pass check 4 of Table 13: each BOTH range of even length. -/
def bothEven (l : List LayoutRange) (n : Nat) : Prop :=
  ∀ i, i < n → ∀ r, l[i]? = some r → r.mode = .both → (r.limit - rangeLower l i) % 2 = 0

/-- Every range has the running totals of the channels it names for its starts, and no other (R28). -/
def startsAreTotals (l : List LayoutRange) : Prop :=
  ∀ i r, l[i]? = some r →
    r.ch0Start = (if r.mode = .ch1 then none else some (channelTotal l 0 i)) ∧
    r.ch1Start = (if r.mode = .ch0 then none else some (channelTotal l 1 i))

/-- Range i is r, and its segments, from its lower bound up to its limit, hold a pool segment (R25, R32). -/
def holdsSegment (l : List LayoutRange) (i : Nat) (r : LayoutRange) (seg : Nat) : Prop :=
  l[i]? = some r ∧ rangeLower l i ≤ seg ∧ seg < r.limit

/-- Range i is r, has the start on channel c, and its share of the channel covers a channel-local segment g (R35). -/
def coversLocal (l : List LayoutRange) (c : ChannelId) (i : Nat) (r : LayoutRange) (start g : Nat) : Prop :=
  l[i]? = some r ∧ ((c = 0 ∧ r.ch0Start = some start) ∨ (c = 1 ∧ r.ch1Start = some start)) ∧
    start ≤ g ∧ g < start + rangeTakes l c i

/-- Channel c passes check 5 of Table 13. -/
def State.namedOnline (s : State) (c : ChannelId) : Prop :=
  namesChannel s.layout.ranges c → (s.channel c).state = .online

/-- Channel c passes check 6 of Table 13. -/
def State.fitsChannel (s : State) (c : ChannelId) : Prop :=
  channelTotal s.layout.ranges c s.layout.ranges.length ≤ (s.channel c).capacity

/-! ## Requests (Tables 60, 62 and 68) -/

/-- The path and the code of a request (Table 68); for a frame that fails check 1 the kind its answer carries (R198). -/
def requestOf : Instr → Option (MgmtPath × Byte)
  | .readStatus path => some (path, 0x10)
  | .readExtent path _ => some (path, 0x11)
  | .readLayout path => some (path, 0x12)
  | .readPort path _ _ => some (path, 0x13)
  | .readChannel path _ => some (path, 0x14)
  | .readErrors path => some (path, 0x15)
  | .peekCompletion path => some (path, 0x16)
  | .submit path _ => some (path, 0x20)
  | .cancel path _ => some (path, 0x21)
  | .popCompletion path => some (path, 0x22)
  | .abortRelocation path _ => some (path, 0x23)
  | .clearErrors path _ => some (path, 0x24)
  | .clearInterrupted path => some (path, 0x25)
  | .setLayout path _ _ _ => some (path, 0x26)
  | .clearLayout path => some (path, 0x27)
  | .poolCommit path => some (path, 0x28)
  | .poolTeardown path => some (path, 0x29)
  | .channelOnline path _ => some (path, 0x2A)
  | .channelOffline path _ => some (path, 0x2B)
  | .portEnable path _ => some (path, 0x2C)
  | .portDisable path _ => some (path, 0x2D)
  | .portReset path _ => some (path, 0x2E)
  | .setOffer path _ _ _ => some (path, 0x2F)
  | .setTimers path _ _ _ _ => some (path, 0x30)
  | .setPreserve path _ => some (path, 0x31)
  | .claim path => some (path, 0x38)
  | .release path => some (path, 0x39)
  | .breakRole path => some (path, 0x40)
  | .setEligible path _ => some (path, 0x41)
  | .bridgeReset path => some (path, 0x42)
  | .mgmtBadRequest frame => if frameFieldsOk frame then none else some (framePath frame, frameKind frame)
  | _ => none

/-- A request that fails check 1 or 2 of Table 60: an operand that R198 names out of its range, a request of the I2C-only
group in-band, or a frame that fails the field conditions. -/
def badRequest : Instr → Bool
  | .readExtent _ x => decide (63 < x.toNat)
  | .readPort _ p clear => decide (3 < p.toNat) || decide (1 < clear.toNat)
  | .readChannel _ c => decide (1 < c.toNat)
  | .abortRelocation _ x => decide (63 < x.toNat)
  | .clearErrors _ selector => decide (2 < selector.toNat)
  | .channelOnline _ c => decide (1 < c.toNat)
  | .channelOffline _ c => decide (1 < c.toNat)
  | .portEnable _ p => decide (3 < p.toNat)
  | .portDisable _ p => decide (3 < p.toNat)
  | .portReset _ p => decide (3 < p.toNat)
  | .setOffer _ p _ _ => decide (3 < p.toNat)
  | .setPreserve _ v => decide (1 < v.toNat)
  | .setEligible path v => decide (15 < v.toNat) || decide (path ≠ .i2c)
  | .breakRole path => decide (path ≠ .i2c)
  | .bridgeReset path => decide (path ≠ .i2c)
  | .mgmtBadRequest _ => true
  | _ => false

/-- The requests that only the holder may make: those of Table 62, READ_PORT with the clear option (R177), and RELEASE
(R179). -/
def holderRequest : Instr → Bool
  | .readPort _ _ clear => decide (clear = 1)
  | .submit _ _ => true
  | .cancel _ _ => true
  | .popCompletion _ => true
  | .abortRelocation _ _ => true
  | .clearErrors _ _ => true
  | .clearInterrupted _ => true
  | .setLayout _ _ _ _ => true
  | .clearLayout _ => true
  | .poolCommit _ => true
  | .poolTeardown _ => true
  | .channelOnline _ _ => true
  | .channelOffline _ _ => true
  | .portEnable _ _ => true
  | .portDisable _ _ => true
  | .portReset _ _ => true
  | .setOffer _ _ _ _ => true
  | .setTimers _ _ _ _ _ => true
  | .setPreserve _ _ => true
  | .release _ => true
  | _ => false

/-- The commands of power and reset, which act whatever the power condition (R189). -/
def powerCommand : Instr → Bool
  | .powerOn _ => true
  | .pwrgoodDeasserted => true
  | .resetNFallingEdge => true
  | .resetNRise _ => true
  | _ => false

end Sys2Proof.Machine
end

