-- ==== Sys2Proof/Certificates/Slice0/Obligations.lean ====
section
/-! DEFINITION. The statements for the provers, in the order of the manual: the queue of commands, power and reset, the
ports, the trackers, the channels, changes, relocations, requests, and the laws that every step keeps. -/

open Sys2Proof Sys2Proof.Machine

/-! ## The queue of commands -/

/-- A step runs the front command on the rest of the queue, and idles on an empty queue (the idling is the model's own,
log 25). -/
def Obligations.StepRunsFrontCommand : Prop :=
  (∀ (c : Instr) (s : State), step { s with pending := c :: s.pending } = exec c s) ∧
  (∀ s : State, s.pending = [] → step s = .next s)

/-- No command touches the commands that wait. -/
def Obligations.CommandsLeaveTheQueue : Prop :=
  ∀ (c : Instr) (s t : State), exec c s = .next t → t.pending = s.pending

/-- Every command answers a next state, but for a READ or WRITE that the lookup places on a line which no committed range
holds, at its pool address or, for a RELOCATING extent, at the place of the line in the target range: it faults
(log 19). -/
def Obligations.OnlyUnrangedLinesStop : Prop :=
  ∀ (c : Instr) (s : State),
    (∃ t, exec c s = .next t) ∨
    (exec c s = .fault .addressOutsidePool ∧ ∃ p pkt kind x g offset pa,
      (c = .read p pkt ∧ kind = .read ∨ c = .write p pkt ∧ kind = .write) ∧
      s.lookup p kind (packetAddress pkt) = .found x g offset pa ∧
      (s.layout.decode pa = none ∨
        ∃ b r, s.extent x = .relocating b ∧ s.copyEngine = .running r ∧
          s.layout.decode (r.targetBase * 268435456 + offset) = none))

/-! ## Power and reset -/

/-- While PWRGOOD is deasserted every command but those of power and the RESET_N pin is without effect (log 5); and while
the bridge is off or in a bridge reset the I2C target acknowledges no read and no write transaction (R174, R189; off:
log 9). -/
def Obligations.NothingWhilePowerIsOff : Prop :=
  (∀ (c : Instr) (s : State), s.power = .off → powerCommand c = false → exec c s = .next s) ∧
  (∀ (s : State) (address : BitVec 7) (i : Nat), s.power ≠ .running →
    s.i2cRead address i = none ∧ s.i2cTakesWrite address = false)

/-- POWER_ON gives every block its power-on values, whatever the state it meets (while power is on that is the model's
choice, log 6), samples the straps and loads the eligibility set; PWRGOOD_DEASSERTED turns the bridge off and leaves every
block without contents: no extent, layout, entry, notice, change, record, operation, relocation, holder or response. -/
def Obligations.PowerOnValues : Prop :=
  ∀ (straps : Straps) (s : State),
    (∃ t, exec (.powerOn straps) s = .next t ∧ t.power = (if s.resetNLow then .inReset else .running) ∧
      t.straps = straps ∧ t.eligible = straps.mgrEn ∧ t.powerOnValues) ∧
    (∃ t, exec .pwrgoodDeasserted s = .next t ∧ t.power = .off ∧ t.powerOnValues)

/-- RESET_N falling and BRIDGE_RESET begin a bridge reset of their own cause: the preserve flag is taken and cleared,
and what every bridge reset empties is empty, while the counter of change ids and the error records are kept. -/
def Obligations.BridgeResetBegins : Prop :=
  ∀ s : State, s.power = .running →
    ∀ c cause, (c = .resetNFallingEdge ∧ cause = .resetPin) ∨
        (c = .bridgeReset .i2c ∧ cause = .resetRequest ∧ s.receives .i2c) →
    ∃ t, exec c s = .next t ∧ t.power = .inReset ∧
      t.lastReset = { cause := cause, preserved := s.layout.preserve } ∧ t.layout.preserve = false ∧
      t.holder = .none ∧ t.i2c = .empty ∧ t.changeQueue = [] ∧ t.active = none ∧ t.completions = [] ∧
      t.copyEngine = .idle ∧ t.nextChangeId = s.nextChangeId ∧
      (∀ p : PortId, t.tracker p = [] ∧ t.noticeQueue p = { notices := [], next := 0, lost := 0 } ∧ t.slot p = none ∧
        (t.port p).state = (if (s.port p).state = .disabled then .disabled else .down) ∧
        (t.port p).acceptance = none ∧ (t.port p).grantedReads = 0 ∧ (t.port p).grantedWrites = 0 ∧
        (t.port p).crcDrops = 0 ∧ (t.port p).protocolErrors = 0 ∧ (t.port p).orphanData = 0 ∧
        (t.port p).error = none ∧ (t.port p).outbox = []) ∧
      (∀ ch : ChannelId, (t.channel ch).queue = [] ∧ (t.channel ch).lastWinner = 4 ∧
        (t.channel ch).firstError = (s.channel ch).firstError ∧
        (t.channel ch).furtherErrors = (s.channel ch).furtherErrors ∧
        (t.channel ch).correctable = (s.channel ch).correctable)

/-- What a bridge reset, by RESET_N falling or by BRIDGE_RESET, makes of the map, the layout, the channels and the limits: cleared without preserve, and kept
with it, the transient extents resolved as Table 10 gives, and every line of an ONLINE channel that no queued operation
names holding what it held (R113), an OFFLINE or FAULTED channel staying so. -/
def Obligations.BridgeResetKeepsOrClears : Prop :=
  ∀ s : State, s.power = .running → ∀ c, c = .resetNFallingEdge ∨ (c = .bridgeReset .i2c ∧ s.receives .i2c) →
    ∃ t, exec c s = .next t ∧
    (s.layout.preserve = false →
      (∀ x : ExtentId, t.extent x = .free) ∧ t.layout.pool = .offline ∧ t.layout.ranges = [] ∧
      t.limits = { confirm := 1000, drain := 100, bringUp := 20, writeData := 50 } ∧ t.interrupted = none ∧
      (∀ p : PortId, (t.port p).windowSize = 0 ∧ (t.port p).readOffer = 24 ∧ (t.port p).writeOffer = 16) ∧
      (∀ c : ChannelId, (t.channel c).state = .offline ∧ (t.channel c).capacity = 0 ∧ (t.channel c).fillKind = .zero)) ∧
    (s.layout.preserve = true →
      t.layout.pool = s.layout.pool ∧ t.layout.ranges = s.layout.ranges ∧ t.limits = s.limits ∧
      (∀ p : PortId, (t.port p).windowSize = (s.port p).windowSize ∧ (t.port p).readOffer = (s.port p).readOffer ∧
        (t.port p).writeOffer = (s.port p).writeOffer) ∧
      (∀ x : ExtentId, (s.extent x = .free → t.extent x = .free) ∧
        (∀ b, s.extent x = .active b → t.extent x = .active b) ∧
        (∀ b id, s.extent x = .changing b id → t.extent x = .active b) ∧
        (∀ b r, s.extent x = .relocating b → s.copyEngine = .running r →
          t.extent x = if r.phase = .finishing then
              .active { b with poolBase := r.targetBase, generation := b.generation + 1 }
            else .active b)) ∧
      (∀ c : ChannelId,
        ((s.channel c).state = .online → (t.channel c).state = .online ∧ (t.channel c).slots = (s.channel c).slots ∧
          (s.memoryLaw → ∀ line, (∀ o ∈ (s.channel c).queue, o.line ≠ line) →
            (t.channel c).memory.read line = (s.channel c).memory.read line)) ∧
        ((s.channel c).state = .offline → (t.channel c).state = .offline ∧ (t.channel c).slots = (s.channel c).slots) ∧
        ((s.channel c).state = .faulted → (t.channel c).state = .faulted ∧ (t.channel c).slots = (s.channel c).slots) ∧
        ((s.channel c).state = .filling → (t.channel c).state = .offline ∧ (t.channel c).capacity = 0) ∧
        (∀ ff req, (s.channel c).state = .detecting ff req →
          (t.channel c).state = .offline ∧ (t.channel c).capacity = 0)))

/-- A bridge reset with preserve, by RESET_N falling or by BRIDGE_RESET, writes the interrupted-operation record anew for what it cut: the handover and the
relocation, together or alone, the changes that had not started, and the completion records with a held end record; it
leaves the record as it was when it cut none of these. -/
def Obligations.CutWorkIsRecorded : Prop :=
  ∀ s : State, s.power = .running → s.layout.preserve = true → ∀ c, c = .resetNFallingEdge ∨ (c = .bridgeReset .i2c ∧ s.receives .i2c) →
    ∃ t, exec c s = .next t ∧
    ∀ (handover : Option CutHandover) (relocation : Option CutRelocation) (changes records : Nat),
      (∀ h, s.active = some h → changes = s.changeQueue.length - 1 ∧ handover = some
        { changeId := h.change.id, kind := h.change.op.recordKind, extent := h.extent, losing := h.losing,
          phase := h.phase }) →
      (s.active = none → changes = s.changeQueue.length ∧ handover = none) →
      (∀ r, s.copyEngine = .running r → records = s.completions.length ∧ relocation = some
        { extent := r.extent, phase := r.phase.name, cursor := r.cursor }) →
      (∀ r, s.copyEngine = .ending r → records = s.completions.length + 1 ∧ relocation = none) →
      (s.copyEngine = .idle → records = s.completions.length ∧ relocation = none) →
      (handover ≠ none ∨ relocation ≠ none ∨ 0 < changes ∨ 0 < records →
        t.interrupted = some { handover := handover, relocation := relocation, changesDiscarded := changes,
                               recordsDiscarded := records }) ∧
      (handover = none → relocation = none → changes = 0 → records = 0 → t.interrupted = s.interrupted)

/-- The rise of RESET_N, and the end of a reset that BRIDGE_RESET began, run the bridge again with the straps sampled,
the eligibility set loaded, and a channel whose modules faulted during retention FAULTED; a reset that RESET_N holds does
not end of itself, and a falling edge extends one. That the straps and the retention faults wait for the end is log 18. -/
def Obligations.BridgeResetEnds : Prop :=
  (∀ (s : State) (straps : Straps) (c : Instr), s.power = .inReset →
    (c = .resetNRise straps ∧ s.resetNLow = true) ∨ (c = .bridgeResetEnd straps ∧ s.resetNLow = false) →
    ∃ t, exec c s = .next t ∧ t.power = .running ∧ t.resetNLow = false ∧ t.straps = straps ∧
      t.eligible = straps.mgrEn ∧ t.ports = s.ports ∧ t.extents = s.extents ∧ t.layout = s.layout ∧
      t.holder = s.holder ∧ t.i2c = s.i2c ∧ t.lastReset = s.lastReset ∧ t.interrupted = s.interrupted ∧
      (∀ ch : ChannelId, ((s.channel ch).retentionFault = false → t.channel ch = s.channel ch) ∧
        ((s.channel ch).retentionFault = true →
          (t.channel ch).state = .faulted ∧ (t.channel ch).firstError ≠ none))) ∧
  (∀ (s : State) (straps : Straps), s.power = .inReset → s.resetNLow = true →
    exec (.bridgeResetEnd straps) s = .next s) ∧
  (∀ s : State, s.power = .inReset → exec .resetNFallingEdge s = .next { s with resetNLow := true })

/-! ## Ports -/

/-- Bring-up (R43): a partner found in DOWN starts training and the timer at its full limit; training complete gives
AWAIT_OPEN, not accepted and without credits, the timer running on; training failed changes nothing; a link lost in
TRAINING or AWAIT_OPEN gives DOWN with the timer stopped, and has no effect in DOWN and DISABLED; neither training event
has an effect elsewhere; the timer's expiry in TRAINING or AWAIT_OPEN gives FAILED. -/
def Obligations.BringUpTransitions : Prop :=
  ∀ (s : State) (p : PortId), s.power = .running →
    ((s.port p).state = .down → exec (.partnerDetected p) s =
      .next (s.setPort p { s.port p with state := .training, bringUpTimer := some s.limits.bringUp })) ∧
    ((s.port p).state ≠ .down → exec (.partnerDetected p) s = .next s) ∧
    ((s.port p).state = .training → exec (.trainingComplete p) s =
      .next (s.setPort p { s.port p with state := .awaitOpen, acceptance := none, grantedReads := 0, grantedWrites := 0 })) ∧
    ((s.port p).state ≠ .training → exec (.trainingComplete p) s = .next s) ∧
    exec (.trainingFailed p) s = .next s ∧
    ((s.port p).state = .training ∨ (s.port p).state = .awaitOpen → exec (.linkLost p) s =
      .next ((s.setPort p { s.port p with state := .down, bringUpTimer := none, acceptance := none, grantedReads := 0,
                                          grantedWrites := 0, outbox := [] }).setNoticeQueue p
        { notices := [], next := 0, lost := 0 })) ∧
    ((s.port p).state = .disabled ∨ (s.port p).state = .down ∨ (s.port p).state = .failed →
      exec (.linkLost p) s = .next s) ∧
    ((s.port p).state = .training ∨ (s.port p).state = .awaitOpen → (s.port p).bringUpTimer ≠ none →
      exec (.bringUpTimerExpiry p) s =
        .next (s.setPort p { s.port p with state := .failed, bringUpTimer := none, acceptance := none, grantedReads := 0,
                                           grantedWrites := 0, outbox := [] }))

/-- LINK_LOST in OPEN and CLOSING is a port reset that keeps the window, the offers, the counters and the error record:
waiting entries leave, entries at a channel retire, the notices, the role and the slot are gone, and a handover in
CONFIRM that the port was to lose goes to DRAIN, CONFIRMED_BY_LOSS. -/
def Obligations.LinkLostEffects : Prop :=
  ∀ (s : State) (p : PortId), s.power = .running → (s.port p).state = .opened ∨ (s.port p).state = .closing →
    ∃ t, exec (.linkLost p) s = .next t ∧
      t.port p = { s.port p with state := .down, bringUpTimer := none, acceptance := none, grantedReads := 0,
                                 grantedWrites := 0, outbox := [] } ∧
      t.tracker p = ((s.tracker p).filter (fun e => !e.waiting)).map (fun e => { e with state := .retiring }) ∧
      t.noticeQueue p = { notices := [], next := 0, lost := 0 } ∧ t.slot p = none ∧ t.holder ≠ .port p ∧
      (∀ q : PortId, q ≠ p → t.tracker q = s.tracker q ∧ (t.port q).quiet = (s.port q).quiet ∧ t.slot q = s.slot q) ∧
      (∀ c : ChannelId, (t.channel c).queue = (s.channel c).queue ∧ (t.channel c).memory = (s.channel c).memory) ∧
      t = { s with ports := t.ports, trackers := t.trackers, noticeQueues := t.noticeQueues, extents := t.extents,
                   channels := t.channels, changeQueue := t.changeQueue, active := t.active,
                   completions := t.completions, holder := t.holder, slots := t.slots, fresh := t.fresh } ∧
      ((∀ h, s.active = some h → h.phase = .confirm → h.losing ≠ p) →
        t.extents = s.extents ∧ t.changeQueue = s.changeQueue ∧ t.active = s.active ∧ t.completions = s.completions) ∧
      (∀ h, s.active = some h → h.phase = .confirm → h.losing = p →
        (∃ e ∈ s.tracker p, e.extent = h.extent ∧ (h.kind = .downgrade → e.kind = .write)) →
        t.active = some { h with phase := .drain, confirmation := some .confirmedByLoss, roomReported := false,
                                 pendingNotice := if h.pendingNotice = .held then .none else h.pendingNotice,
                                 confirmTimer := none, drainTimer := some s.limits.drain })

/-- A received packet is taken apart as kind, length, body and CRC, and routed by its kind code: one with a wrong CRC is
dropped whatever its kind, and one of undefined kind, or a configuration packet of another length, discarded (R193, R194,
R196). A CONFIG_READ is carried by the command CONFIG_WRITE (the model's choice, log 10). A packet with a wrong CRC is only counted; an undefined
packet is only a MALFORMED protocol error without a tag. -/
def Obligations.DroppedAndUndefinedPackets : Prop :=
  (∀ (s : State) (p : PortId), s.hears p →
    (∀ bytes, crcBad bytes = true → exec (.packetCrcDrop p bytes) s =
      .next (s.setPort p { s.port p with
        crcDrops := if (s.port p).crcDrops < 65535 then (s.port p).crcDrops + 1 else (s.port p).crcDrops })) ∧
    (∀ kind pkt, undefinedInbound kind pkt = true → exec (.undefinedPacket p kind pkt) s =
      .next (s.setPort p { s.port p with
        protocolErrors := if (s.port p).protocolErrors < 255 then (s.port p).protocolErrors + 1
          else (s.port p).protocolErrors
        error := match (s.port p).error with
          | none => some { kind := .malformed, tag := none }
          | some e => some e }))) ∧
  (∀ (p : PortId) (bytes : List Byte), crcBad bytes = true → packetCommand p bytes = .packetCrcDrop p bytes) ∧
  (∀ (p : PortId) (kind len : Byte) (body crc : List Byte), crc.length = 4 →
    crcBad (kind :: len :: (body ++ crc)) = false →
    (kind = 0x01 → packetCommand p (kind :: len :: (body ++ crc)) = .read p { len := len, body := body }) ∧
    (kind = 0x02 → packetCommand p (kind :: len :: (body ++ crc)) = .write p { len := len, body := body }) ∧
    (kind = 0x03 → packetCommand p (kind :: len :: (body ++ crc)) = .wdata p { len := len, body := body }) ∧
    (kind = 0x04 → packetCommand p (kind :: len :: (body ++ crc)) = .noticeAck p { len := len, body := body }) ∧
    (kind = 0x05 → packetCommand p (kind :: len :: (body ++ crc)) =
      frameCommand (.inBand p { len := len, body := body })) ∧
    (∀ word, kind = 0x06 → len = 1 → body = [word] →
      packetCommand p (kind :: len :: (body ++ crc)) = .configWrite p (.read word)) ∧
    (∀ (word : Byte) (v : BitVec 64), kind = 0x07 → len = 9 → body = word :: le 8 v.toNat →
      packetCommand p (kind :: len :: (body ++ crc)) =
        if word = 1 then .windowAccept p v else if word = 2 then .portOpen p v
        else if word = 3 then .portClose p v else .configWrite p (.write word v)) ∧
    (kind = 0 ∨ 7 < kind.toNat ∨ (kind = 0x06 ∧ (len ≠ 1 ∨ body.length ≠ 1)) ∨
        (kind = 0x07 ∧ (len ≠ 9 ∨ body.length ≠ 9)) →
      packetCommand p (kind :: len :: (body ++ crc)) = .undefinedPacket p kind { len := len, body := body }))

/-! ## Intake -/

/-- Intake checks 2, 3, 4 and 8 in their order, the lookup's outcomes between checks 4 and 8, and check 9: a request that
is not MOVING is accepted with its resolution when the channel that decides is ONLINE and refused CHANNEL_DOWN when not; a
DUAL write whose destination alone is not ONLINE is accepted as SOURCE. OVERRUN is tested as "not below" (log 28). -/
def Obligations.IntakeChecksInOrder : Prop :=
  ∀ (s : State) (p : PortId) (kind : ReqKind) (tag : Byte) (a : Nat),
    ((s.port p).state ≠ .opened → s.intake p kind tag a = .refused .notOpen) ∧
    ((s.port p).state = .opened → (s.port p).granted kind ≤ countedOf kind (s.tracker p) →
      s.intake p kind tag a = .refused .overrun) ∧
    ((s.port p).state = .opened → countedOf kind (s.tracker p) < (s.port p).granted kind →
      (∃ e, e ∈ s.tracker p ∧ e.kind = kind ∧ e.opTag = tag ∧ e.state ≠ .retiring) →
      s.intake p kind tag a = .refused .tagInUse) ∧
    ((s.port p).state = .opened → countedOf kind (s.tracker p) < (s.port p).granted kind →
      (∀ e, e ∈ s.tracker p → e.kind = kind → e.opTag = tag → e.state = .retiring) →
      (s.lookup p kind a = .outOfWindow → s.intake p kind tag a = .refused .outOfWindow) ∧
      (s.lookup p kind a = .unmapped → s.intake p kind tag a = .refused .unmapped) ∧
      (s.lookup p kind a = .noRight → s.intake p kind tag a = .refused .noRight) ∧
      (∀ x g offset pa b id h, s.lookup p kind a = .found x g offset pa → s.extent x = .changing b id →
        s.active = some h → h.extent = x → h.losing = p → h.phase = .drain →
        (h.kind ≠ .downgrade ∨ kind = .write) → s.intake p kind tag a = .refused .moving) ∧
      (∀ x g offset pa, s.lookup p kind a = .found x g offset pa →
        (∀ b id h, s.extent x = .changing b id → s.active = some h → h.extent = x → h.losing = p → h.phase = .drain →
          h.kind = .downgrade ∧ kind = .read) →
        (∀ src, s.resolve kind x offset pa = some (.source src) →
          s.intake p kind tag a =
            if (s.channel src.channel).state = .online then .accepted x g (offset / 64) (.source src)
            else .refused .channelDown) ∧
        (∀ dst, s.resolve kind x offset pa = some (.dest dst) →
          s.intake p kind tag a =
            if (s.channel dst.channel).state = .online then .accepted x g (offset / 64) (.dest dst)
            else .refused .channelDown) ∧
        (∀ src dst, s.resolve kind x offset pa = some (.dual src dst) →
          s.intake p kind tag a =
            if (s.channel src.channel).state = .online then
              if (s.channel dst.channel).state = .online then .accepted x g (offset / 64) (.dual src dst)
              else .accepted x g (offset / 64) (.source src)
            else .refused .channelDown)))

/-- The lookup of a node address: beyond the window, covered by no mapping, without the right, or the place of the
address in the one extent that covers it. -/
def Obligations.LookupOutcomes : Prop :=
  ∀ (s : State) (p : PortId) (kind : ReqKind) (a : Nat),
    ((s.port p).windowSize ≤ a / 268435456 → s.lookup p kind a = .outOfWindow) ∧
    (a / 268435456 < (s.port p).windowSize →
      (∀ x b m, (s.extent x).body? = some b → b.mapping[p] = some m →
        ¬ (m.windowBase ≤ a / 268435456 ∧ a / 268435456 < m.windowBase + b.length)) →
      s.lookup p kind a = .unmapped) ∧
    (∀ x b m, a / 268435456 < (s.port p).windowSize → (s.extent x).body? = some b → b.mapping[p] = some m →
      m.windowBase ≤ a / 268435456 → a / 268435456 < m.windowBase + b.length →
      (∀ y b' m', y ≠ x → (s.extent y).body? = some b' → b'.mapping[p] = some m' →
        ¬ (m'.windowBase ≤ a / 268435456 ∧ a / 268435456 < m'.windowBase + b'.length)) →
      s.lookup p kind a =
        if kind = .write ∧ m.rights = .read then .noRight
        else .found x b.generation ((a / 268435456 - m.windowBase) * 268435456 + a % 268435456)
          (b.poolBase * 268435456 + ((a / 268435456 - m.windowBase) * 268435456 + a % 268435456)))

/-- Target resolution by phase: SOURCE outside RELOCATING; in COPYING a READ is SOURCE and a WRITE is DUAL below the
cursor and SOURCE at or above it; DEST in FINISHING; SOURCE in ABANDONING. The places are those of R32 and R33: in a range of
one channel the lines follow one another from its start; in a BOTH range blocks of 8 lines go to CH0 and CH1 in turn, CH0
first. -/
def Obligations.TargetResolution : Prop :=
  (∀ (s : State) (kind : ReqKind) (x : ExtentId) (offset pa : Nat) (src : Target), s.layout.decode pa = some src →
    ((∀ b, s.extent x ≠ .relocating b) → s.resolve kind x offset pa = some (.source src)) ∧
    (∀ b r dst, s.extent x = .relocating b → s.copyEngine = .running r →
      s.layout.decode (r.targetBase * 268435456 + offset) = some dst →
      (r.phase = .copying → kind = .read → s.resolve kind x offset pa = some (.source src)) ∧
      (r.phase = .copying → kind = .write → offset / 64 < r.cursor → s.resolve kind x offset pa = some (.dual src dst)) ∧
      (r.phase = .copying → kind = .write → r.cursor ≤ offset / 64 → s.resolve kind x offset pa = some (.source src)) ∧
      (r.phase = .finishing → s.resolve kind x offset pa = some (.dest dst)) ∧
      (∀ reason, r.phase = .abandoning reason → s.resolve kind x offset pa = some (.source src)))) ∧
  (∀ (l : Layout) (address offset i : Nat) (r : LayoutRange), limitsRise l.ranges l.ranges.length →
    holdsSegment l.ranges i r (address / 268435456) → offset = address - rangeLower l.ranges i * 268435456 →
    (∀ start, r.mode = .ch0 → r.ch0Start = some start →
      l.decode address = some { channel := 0, line := start * 4194304 + offset / 64 }) ∧
    (∀ start, r.mode = .ch1 → r.ch1Start = some start →
      l.decode address = some { channel := 1, line := start * 4194304 + offset / 64 }) ∧
    (∀ start, r.mode = .both → offset / 512 % 2 = 0 → r.ch0Start = some start →
      l.decode address = some
        { channel := 0, line := start * 4194304 + offset / 512 / 2 * 8 + offset % 512 / 64 }) ∧
    (∀ start, r.mode = .both → offset / 512 % 2 = 1 → r.ch1Start = some start →
      l.decode address = some
        { channel := 1, line := start * 4194304 + offset / 512 / 2 * 8 + offset % 512 / 64 }))

/-- A READ and a WRITE that pass every check become the newest entry of their tracker, and nothing else changes. -/
def Obligations.RequestsAccepted : Prop :=
  ∀ (s : State) (p : PortId) (pkt : RawPacket) (x : ExtentId) (g : Generation) (line : Nat) (r : Resolution),
    s.hears p →
    (readFieldsOk pkt = true → s.intake p .read (packetTag pkt) (packetAddress pkt) = .accepted x g line r →
      exec (.read p pkt) s = .next (s.setTracker p (s.tracker p ++
        [{ kind := .read, opTag := packetTag pkt, extent := x, generation := g, line := line, resolution := r, mask := 0,
           half0 := none, half1 := none, state := .waitChannel, sourcePart := none, destPart := false,
           timer := none }]))) ∧
    (writeFieldsOk pkt = true → s.intake p .write (packetTag pkt) (packetAddress pkt) = .accepted x g line r →
      exec (.write p pkt) s = .next (s.setTracker p (s.tracker p ++
        [{ kind := .write, opTag := packetTag pkt, extent := x, generation := g, line := line, resolution := r,
           mask := packetMask pkt, half0 := none, half1 := none, state := .waitData, sourcePart := none,
           destPart := false, timer := some s.limits.writeData }])))

/-- A READ or WRITE that fails a check takes no entry and is answered RD_ABORT or WR_ABORT with its tag and reason and no
generation; MALFORMED, OVERRUN and TAG_IN_USE count as protocol errors, the others do not; one too short for a tag is
only counted. -/
def Obligations.RequestsRefused : Prop :=
  ∀ (s : State) (p : PortId) (pkt : RawPacket) (c : Instr) (kind : ReqKind) (ok : Bool), s.hears p →
    (c = .read p pkt ∧ kind = .read ∧ ok = readFieldsOk pkt) ∨ (c = .write p pkt ∧ kind = .write ∧ ok = writeFieldsOk pkt) →
    (∀ reason, ok = true → s.intake p kind (packetTag pkt) (packetAddress pkt) = .refused reason →
      ∃ x : LinkPort, exec c s = .next (s.setPort p x) ∧
        x.outbox = (s.port p).outbox ++
          [if kind = .read then .rdAbort (packetTag pkt) reason none else .wrAbort (packetTag pkt) reason none] ∧
        (reason = .overrun ∨ reason = .tagInUse →
          x = { s.port p with outbox := x.outbox, error := x.error, protocolErrors := satIncr 255 (s.port p).protocolErrors } ∧
          ∀ e, (s.port p).error = some e → x.error = some e) ∧
        (reason ≠ .overrun → reason ≠ .tagInUse → reason ≠ .malformed → x = { s.port p with outbox := x.outbox })) ∧
    (ok = false →
      ∃ x : LinkPort, exec c s = .next (s.setPort p x) ∧
        x = { s.port p with outbox := x.outbox, error := x.error, protocolErrors := satIncr 255 (s.port p).protocolErrors } ∧
        (∀ e, (s.port p).error = some e → x.error = some e) ∧
        ((s.port p).error = none → x.error = some { kind := .malformed, tag := pkt.body.head? }) ∧
        (∀ tag rest, pkt.body = tag :: rest → x.outbox = (s.port p).outbox ++
          [if kind = .read then .rdAbort tag .malformed none else .wrAbort tag .malformed none]) ∧
        (pkt.body = [] → x.outbox = (s.port p).outbox))

/-- WDATA stores its half in the one write that waits for it, and the second half moves the write to WAIT_CHANNEL with
its timer stopped. A malformed WDATA changes nothing but the port's error count and its empty error record, with the tag
when the packet held one. A write whose timer expires in WAIT_DATA leaves, answered DATA_TIMEOUT with its generation. -/
def Obligations.WriteDataStored : Prop :=
  ∀ (s : State) (p : PortId),
    (∀ (pkt : RawPacket) (l1 l2 : List Entry) (e : Entry), s.hears p → wdataFieldsOk pkt = true →
      s.tracker p = l1 ++ e :: l2 → e.kind = .write → e.opTag = packetTag pkt → e.state = .waitData →
      (∀ e' ∈ l1 ++ l2, e'.kind = .write → e'.opTag = packetTag pkt → e'.state = .retiring) →
      (packetHalf pkt = 0 → e.half0 = none → exec (.wdata p pkt) s =
        .next (s.setTracker p (l1 ++ (if e.half1 = none then { e with half0 := some (packetHalfData pkt) }
          else { e with half0 := some (packetHalfData pkt), state := .waitChannel, timer := none }) :: l2))) ∧
      (packetHalf pkt = 1 → e.half1 = none → exec (.wdata p pkt) s =
        .next (s.setTracker p (l1 ++ (if e.half0 = none then { e with half1 := some (packetHalfData pkt) }
          else { e with half1 := some (packetHalfData pkt), state := .waitChannel, timer := none }) :: l2)))) ∧
    (∀ pkt : RawPacket, s.hears p →
      (pkt.len ≠ 34 ∨ pkt.body.length ≠ 34 ∨ ∃ half, pkt.body[1]? = some half ∧ half ≠ 0 ∧ half ≠ 1) →
      exec (.wdata p pkt) s =
        .next (s.setPort p { s.port p with
          protocolErrors := if (s.port p).protocolErrors < 255 then (s.port p).protocolErrors + 1
            else (s.port p).protocolErrors
          error := match (s.port p).error with
            | none => some { kind := .malformed, tag := pkt.body[0]? }
            | some e => some e })) ∧
    (∀ (tag : Byte), s.power = .running → exec (.writeDataTimerExpiry p tag) s =
      .next ((s.setTracker p ((s.tracker p).filter
          (fun e => !(decide (e.kind = .write) && decide (e.opTag = tag) && decide (e.state = .waitData))))).sendAll p
        (((s.tracker p).filter
          (fun e => decide (e.kind = .write) && decide (e.opTag = tag) && decide (e.state = .waitData))).map
            (fun e => .wrAbort tag .dataTimeout (some e.generation)))))

/-- A well-formed WDATA that no counted write in WAIT_DATA wants is dropped and only counted as orphan data. -/
def Obligations.OrphanDataDropped : Prop :=
  ∀ (s : State) (p : PortId) (pkt : RawPacket), s.hears p → wdataFieldsOk pkt = true →
    (∀ e ∈ s.tracker p, e.kind = .write → e.opTag = packetTag pkt →
      e.state ≠ .waitData ∨ (packetHalf pkt = 0 ∧ e.half0 ≠ none) ∨ (packetHalf pkt = 1 ∧ e.half1 ≠ none)) →
    exec (.wdata p pkt) s =
      .next (s.setPort p { s.port p with
        orphanData := if (s.port p).orphanData < 255 then (s.port p).orphanData + 1 else (s.port p).orphanData })

/-! ## Notices -/

/-- A NOTICE_ACK removes the notice it names and every older one, and nothing else changes where no handover of the port
is in CONFIRM; a sequence that no notice in the list has is a BAD_ACK protocol error and removes nothing, and one of another length a MALFORMED protocol error without a tag that removes nothing. -/
def Obligations.AcknowledgementsRemoveNotices : Prop :=
  ∀ (s : State) (p : PortId) (sq : Byte), s.hears p →
    (∀ (older kept : List Notice) (n : Notice), (s.noticeQueue p).notices = older ++ n :: kept → n.sequence = sq →
      (∀ m ∈ older, m.sequence ≠ sq) →
      (∀ h, s.active = some h → h.phase = .confirm → h.losing ≠ p) →
      exec (.noticeAck p { len := 1, body := [sq] }) s =
        .next (s.setNoticeQueue p { s.noticeQueue p with notices := kept })) ∧
    ((∀ m ∈ (s.noticeQueue p).notices, m.sequence ≠ sq) →
      exec (.noticeAck p { len := 1, body := [sq] }) s =
        .next (s.setPort p { s.port p with
          protocolErrors := if (s.port p).protocolErrors < 255 then (s.port p).protocolErrors + 1
            else (s.port p).protocolErrors
          error := match (s.port p).error with
            | none => some { kind := .badAck, tag := some sq }
            | some e => some e })) ∧
    (∀ pkt : RawPacket, pkt.len ≠ 1 ∨ pkt.body.length ≠ 1 →
      exec (.noticeAck p pkt) s =
        .next (s.setPort p { s.port p with
          protocolErrors := if (s.port p).protocolErrors < 255 then (s.port p).protocolErrors + 1
            else (s.port p).protocolErrors
          error := match (s.port p).error with
            | none => some { kind := .malformed, tag := none }
            | some e => some e }))

/-- The acknowledgement that removes the PENDING notice of the handover in CONFIRM puts it in DRAIN, ACKNOWLEDGED, with
the confirm timer stopped and the drain timer started; it waits there while the losing port's tracker holds a counted
entry of the extent. -/
def Obligations.AcknowledgementConfirms : Prop :=
  ∀ (s : State) (p : PortId) (sq : Byte) (h : Handover) (older kept : List Notice) (n : Notice),
    s.hears p → s.active = some h → h.phase = .confirm → h.losing = p → (∃ k, h.pendingNotice = .sent k) →
    (s.noticeQueue p).notices = older ++ n :: kept → n.sequence = sq → (∀ m ∈ older, m.sequence ≠ sq) →
    (∃ m ∈ older ++ [n], m.body.pendingChange? = some h.change.id) →
    (∃ e ∈ s.tracker p, e.extent = h.extent ∧ (h.kind = .downgrade → e.kind = .write)) →
    exec (.noticeAck p { len := 1, body := [sq] }) s =
      .next { s.setNoticeQueue p { s.noticeQueue p with notices := kept } with
        active := some { h with phase := .drain, confirmation := some .acknowledged, roomReported := false,
                                confirmTimer := none, drainTimer := some s.limits.drain } }

/-! ## Configuration words -/

/-- The open handshake: WINDOW_ACCEPT is accepted in AWAIT_OPEN when it carries the window size and refused VALUE when
not, and refused STATE in OPEN and CLOSING; PORT_OPEN passes its three checks in order, and then opens the port with the
credits written and the write offer. -/
def Obligations.OpenHandshake : Prop :=
  ∀ (s : State) (p : PortId) (v : BitVec 64), s.power = .running →
    ((s.port p).state = .awaitOpen → v.toNat < 2048 → v.toNat = (s.port p).windowSize →
      exec (.windowAccept p v) s = .next ((s.setPort p { s.port p with acceptance := some (s.port p).windowSize }).send p
        (.configDone 1))) ∧
    ((s.port p).state = .awaitOpen → v.toNat ≠ (s.port p).windowSize →
      exec (.windowAccept p v) s = .next (s.send p (.configRefused 1 .value))) ∧
    ((s.port p).state = .opened ∨ (s.port p).state = .closing →
      exec (.windowAccept p v) s = .next (s.send p (.configRefused 1 .state)) ∧
      exec (.portOpen p v) s = .next (s.send p (.configRefused 2 .state))) ∧
    ((s.port p).state = .awaitOpen → (s.port p).acceptance = none →
      exec (.portOpen p v) s = .next (s.send p (.configRefused 2 .sequence))) ∧
    ((s.port p).state = .awaitOpen → (s.port p).acceptance ≠ none →
      (v.toNat = 0 ∨ 32 ≤ v.toNat ∨ (s.port p).readOffer < v.toNat) →
      exec (.portOpen p v) s = .next (s.send p (.configRefused 2 .value))) ∧
    ((s.port p).state = .awaitOpen → (s.port p).acceptance ≠ none →
      1 ≤ v.toNat → v.toNat < 32 → v.toNat ≤ (s.port p).readOffer →
      (∃ e ∈ s.tracker p, e.state = .retiring) →
      exec (.portOpen p v) s = .next (s.send p (.configRefused 2 .retiring))) ∧
    ((s.port p).state = .awaitOpen → (s.port p).acceptance ≠ none →
      1 ≤ v.toNat → v.toNat < 32 → v.toNat ≤ (s.port p).readOffer →
      (∀ e ∈ s.tracker p, e.state ≠ .retiring) →
      exec (.portOpen p v) s =
        .next ((s.setPort p { s.port p with state := .opened, bringUpTimer := none, grantedReads := v.toNat,
                                            grantedWrites := (s.port p).writeOffer }).send p (.configDone 2)))

/-- PORT_CLOSE in OPEN answers CONFIG_DONE, empties the notice queue with its next sequence kept, frees the role, and
leaves the port CLOSING with its credits while its tracker holds an entry; a handover in CONFIRM that the port was to lose
goes to DRAIN, CONFIRMED_BY_LOSS, and commits in the same step when no entry is counted. CLOSE_COMPLETE takes a CLOSING port with no
entry to AWAIT_OPEN, credits 0 and not accepted. Elsewhere PORT_CLOSE is refused STATE. -/
def Obligations.PortCloses : Prop :=
  ∀ (s : State) (p : PortId) (v : BitVec 64), s.power = .running →
    ((s.port p).state = .opened → s.tracker p ≠ [] →
      (∀ h, s.active = some h → h.phase = .confirm → h.losing ≠ p) →
      exec (.portClose p v) s =
        .next { s.setNoticeQueue p { notices := [], next := (s.noticeQueue p).next, lost := 0 } with
          ports := s.ports.set p { s.port p with state := .closing, outbox := (s.port p).outbox ++ [.configDone 3] }
          holder := if s.holder = .port p then .none else s.holder }) ∧
    (∀ h u, (s.port p).state = .opened → s.tracker p ≠ [] → s.active = some h → h.phase = .confirm → h.losing = p →
      u = { s.setNoticeQueue p { notices := [], next := (s.noticeQueue p).next, lost := 0 } with
        ports := s.ports.set p { s.port p with state := .closing, outbox := (s.port p).outbox ++ [.configDone 3] }
        holder := if s.holder = .port p then .none else s.holder
        active := some { h with phase := .drain, confirmation := some .confirmedByLoss, roomReported := false,
                                pendingNotice := if h.pendingNotice = .held then .none else h.pendingNotice,
                                confirmTimer := none, drainTimer := some s.limits.drain } } →
      ((∃ e ∈ s.tracker p, e.extent = h.extent ∧ (h.kind = .downgrade → e.kind = .write)) →
        exec (.portClose p v) s = .next u) ∧
      ((∀ e ∈ s.tracker p, e.extent = h.extent → h.kind = .downgrade ∧ e.kind = .read) →
        exec (.portClose p v) s = exec .handoverCommit u)) ∧
    ((s.port p).state = .opened → s.tracker p = [] → ∃ t, exec (.portClose p v) s = .next t ∧
      (t.port p).state = .awaitOpen ∧ (t.port p).grantedReads = 0 ∧ (t.port p).grantedWrites = 0 ∧
      (t.port p).acceptance = none ∧ t.holder ≠ .port p) ∧
    ((s.port p).state = .awaitOpen ∨ (s.port p).state = .closing →
      exec (.portClose p v) s = .next (s.send p (.configRefused 3 .state))) ∧
    ((s.port p).state = .closing → s.tracker p = [] →
      exec (.closeComplete p) s = .next (s.setPort p { s.port p with state := .awaitOpen, grantedReads := 0,
                                                                      grantedWrites := 0, acceptance := none }))

/-- The configuration accesses that CONFIG_WRITE carries (reads among them: the model's choice, log 10): a read of words
00h to 05h answers CONFIG_DATA with the word as it stands and changes nothing else, a write to a read-only word is
refused READ_ONLY, a word above 05h is refused NO_WORD, and a write to word 01h, 02h or 03h is answered as its own row
answers it. -/
def Obligations.ConfigurationAnswers : Prop :=
  ∀ (s : State) (p : PortId) (word : Byte) (v : BitVec 64), s.hears p →
    (word = 0 → exec (.configWrite p (.read word)) s = .next (s.send p (.configData 0 (BitVec.ofNat 64
      ((s.port p).windowSize + (s.port p).readOffer * 2 ^ 16 + (s.port p).writeOffer * 2 ^ 24))))) ∧
    (word = 1 → exec (.configWrite p (.read word)) s = .next (s.send p (.configData 1 (BitVec.ofNat 64
      (match (s.port p).acceptance with
       | none => 0
       | some n => n + 2 ^ 16))))) ∧
    (word = 2 → exec (.configWrite p (.read word)) s =
      .next (s.send p (.configData 2 (BitVec.ofNat 64 (s.port p).grantedReads)))) ∧
    (word = 3 → exec (.configWrite p (.read word)) s =
      .next (s.send p (.configData 3 (if (s.port p).state = .closing then 1 else 0)))) ∧
    (∀ code : Nat, word = 4 →
      ((s.port p).state = .awaitOpen ∧ code = 3) ∨ ((s.port p).state = .opened ∧ code = 4) ∨
        ((s.port p).state = .closing ∧ code = 5) →
      exec (.configWrite p (.read word)) s = .next (s.send p (.configData 4 (BitVec.ofNat 64
        (p.val + code * 2 ^ 4 + (if (s.port p).acceptance = none then 0 else 2 ^ 8) +
          (s.port p).grantedReads * 2 ^ 16 + (s.port p).grantedWrites * 2 ^ 24 +
          ((s.tracker p).filter (fun e => decide (e.kind = .read ∧ e.state ≠ .retiring))).length * 2 ^ 32 +
          ((s.tracker p).filter (fun e => decide (e.kind = .write ∧ e.state ≠ .retiring))).length * 2 ^ 40 +
          ((s.tracker p).filter (fun e => decide (e.state = .retiring))).length * 2 ^ 48 +
          (if s.eligible.getLsbD p.val = true then 2 ^ 56 else 0) +
          (if s.holder = .port p then 2 ^ 57 else 0)))))) ∧
    (word = 5 → exec (.configWrite p (.read word)) s = .next (s.send p (.configData 5 (BitVec.ofNat 64
      ((s.port p).crcDrops + (s.port p).protocolErrors * 2 ^ 16 + (s.port p).orphanData * 2 ^ 24 +
        match (s.port p).error with
        | none => 0
        | some e => 2 ^ 32 + e.kind.code.toNat * 2 ^ 33 +
          match e.tag with
          | none => 0
          | some tag => 2 ^ 36 + tag.toNat * 2 ^ 40))))) ∧
    (word = 0 ∨ word = 4 ∨ word = 5 →
      exec (.configWrite p (.write word v)) s = .next (s.send p (.configRefused word .readOnly))) ∧
    (word = 1 → exec (.configWrite p (.write word v)) s = exec (.windowAccept p v) s) ∧
    (word = 2 → exec (.configWrite p (.write word v)) s = exec (.portOpen p v) s) ∧
    (word = 3 → exec (.configWrite p (.write word v)) s = exec (.portClose p v) s) ∧
    (5 < word.toNat →
      exec (.configWrite p (.write word v)) s = .next (s.send p (.configRefused word .noWord)) ∧
      exec (.configWrite p (.read word)) s = .next (s.send p (.configRefused word .noWord)))

/-! ## Channels -/

/-- The position an arbiter grants is eligible, and no position before it in the cyclic order after the last winner is
(R100). ADMISSION then moves the candidate to AT_CHANNEL with its operation, or a DUAL entry's two together, at the tail
of the queue, in a reserved place while its port has one free; of two operations on one channel the source part takes its place first
(the model's choice, log 41). -/
def Obligations.AdmissionGrants : Prop :=
  ∀ (s : State) (c : ChannelId), s.power = .running →
    (∀ pos, s.nextGrant c = some pos → s.eligibleAt c pos = true ∧
      ∀ k : Nat, 0 < k → k < 5 → (∀ j : Nat, 0 < j → j ≤ k → (s.channel c).lastWinner + Fin.ofNat 5 j ≠ pos) →
        s.eligibleAt c ((s.channel c).lastWinner + Fin.ofNat 5 k) = false) ∧
    (∀ (p : PortId) (e : Entry), s.nextGrant c = some p.castSucc → trackerCandidate (s.tracker p) c = some e →
      ∃ u, exec (.admission c) s = .next u ∧ u = { s with trackers := u.trackers, channels := u.channels } ∧
        u.tracker p = (s.tracker p).map (fun x => if x.kind = e.kind ∧ x.opTag = e.opTag ∧ x.state ≠ .retiring then
          { x with state := .atChannel, timer := none, sourcePart := none, destPart := false } else x) ∧
        (∀ q : PortId, q ≠ p → u.tracker q = s.tracker q) ∧ (u.channel c).lastWinner = p.castSucc ∧
        (∀ d : ChannelId, u.channel d =
          { s.channel d with queue := (u.channel d).queue, lastWinner := (u.channel d).lastWinner }) ∧
        (∀ t : Target, e.resolution = .source t ∨ e.resolution = .dest t → t.channel = c ∧
          (u.channel c).queue = (s.channel c).queue ++
            [{ action := e.action, line := t.line, origin := .port p e.opTag, part := none,
               slot := if (s.channel c).reservedUsed p.castSucc < 4 then .reserved else .shared }] ∧
          ∀ d : ChannelId, d ≠ c → u.channel d = s.channel d) ∧
        (∀ a b : Target, e.resolution = .dual a b → a.channel = c ∧
          (b.channel ≠ c →
            (u.channel c).queue = (s.channel c).queue ++
              [{ action := e.action, line := a.line, origin := .port p e.opTag, part := some .source,
                 slot := if (s.channel c).reservedUsed p.castSucc < 4 then .reserved else .shared }] ∧
            (u.channel b.channel).queue = (s.channel b.channel).queue ++
              [{ action := e.action, line := b.line, origin := .port p e.opTag, part := some .destination,
                 slot := if (s.channel b.channel).reservedUsed p.castSucc < 4 then .reserved else .shared }]) ∧
          (b.channel = c → (u.channel c).queue = (s.channel c).queue ++
            [{ action := e.action, line := a.line, origin := .port p e.opTag, part := some .source,
               slot := if (s.channel c).reservedUsed p.castSucc < 4 then .reserved else .shared },
             { action := e.action, line := b.line, origin := .port p e.opTag, part := some .destination,
               slot := if (s.channel c).reservedUsed p.castSucc < 3 then .reserved else .shared }])))

/-- The grant of the Copy Engine's candidate: the lowest free pair number, the cursor one further, and for a PAIR a
COPY_READ at the source and an empty placeholder at the destination, for a POISON_WRITE the poison marker and one more
poisoned line; of a pair on one channel the COPY_READ takes its place first (the model's choice, log 41). -/
def Obligations.CopyPairAdmitted : Prop :=
  ∀ (s : State) (c : ChannelId) (r : Relocation) (x : CopyCandidate) (n : PairNumber), s.power = .running →
    s.nextGrant c = some 4 → s.copyEngine = .running r → s.copyCandidate = some x →
    (∀ y ∈ r.pairs, y.number ≠ n) → (∀ m : PairNumber, m < n → ∃ y ∈ r.pairs, y.number = m) →
    ∃ t r', exec (.copyPairAdmission c) s = .next t ∧ t.copyEngine = .running r' ∧
      t = { s with channels := t.channels, copyEngine := t.copyEngine } ∧
      (∀ d : ChannelId, t.channel d =
        { s.channel d with queue := (t.channel d).queue, lastWinner := if d = c then 4 else (s.channel d).lastWinner }) ∧
      (x.asPair = true → x.src.channel = c ∧
        r' = { r with cursor := r.cursor + 1, pairs := r.pairs ++
          [{ number := n, line := r.cursor, form := .pair x.src .outstanding, dst := x.dst, writePart := .placeholder }] } ∧
        (x.dst.channel ≠ c →
          (t.channel c).queue = (s.channel c).queue ++
            [{ action := .copyRead, line := x.src.line, origin := .copy n, part := none,
               slot := if (s.channel c).reservedUsed 4 < 4 then .reserved else .shared }] ∧
          (t.channel x.dst.channel).queue = (s.channel x.dst.channel).queue ++
            [{ action := .copyWrite none, line := x.dst.line, origin := .copy n, part := none,
               slot := if (s.channel x.dst.channel).reservedUsed 4 < 4 then .reserved else .shared }]) ∧
        (x.dst.channel = c → (t.channel c).queue = (s.channel c).queue ++
            [{ action := .copyRead, line := x.src.line, origin := .copy n, part := none,
               slot := if (s.channel c).reservedUsed 4 < 4 then .reserved else .shared },
             { action := .copyWrite none, line := x.dst.line, origin := .copy n, part := none,
               slot := if (s.channel c).reservedUsed 4 < 3 then .reserved else .shared }])) ∧
      (x.asPair = false → x.dst.channel = c ∧
        r' = { r with cursor := r.cursor + 1, poisonedLines := r.poisonedLines + 1, pairs := r.pairs ++
          [{ number := n, line := r.cursor, form := .poisonWrite, dst := x.dst, writePart := .supplied }] } ∧
        (t.channel c).queue = (s.channel c).queue ++
          [{ action := .copyWrite (some .poison), line := x.dst.line, origin := .copy n, part := none,
             slot := if (s.channel c).reservedUsed 4 < 4 then .reserved else .shared }])

/-- A READ completes (R80): the first READ of its tag in the queue, no earlier operation standing on its line, leaves its
place; its entry leaves with RD_RETURN of the status and data its ECC outcome gives, or without a response when it is
RETIRING; an UNCORRECTABLE line becomes the poison marker, with the error recorded, and no other line changes. -/
def Obligations.ReadCompletes : Prop :=
  ∀ (s : State) (c : ChannelId) (p : PortId) (tag : Byte) (media : MediaResult)
    (q1 q2 : List Operation) (op : Operation) (l1 l2 : List Entry) (e : Entry),
    s.memoryLaw → (s.channel c).state = .online → (s.channel c).queue = q1 ++ op :: q2 →
    op.origin = .port p tag → op.action = .read →
    (∀ o ∈ q1, o.line ≠ op.line) → (∀ o ∈ q1, ¬ (o.origin = .port p tag ∧ o.action = .read)) →
    s.tracker p = l1 ++ e :: l2 → e.kind = .read → e.opTag = tag → s.completes p e →
    (∀ e' ∈ l1 ++ l2, e'.kind = .read → e'.opTag ≠ tag) →
    ∃ t pkt, exec (.readComplete c p tag media) s = .next t ∧
      t = { s.setPort p { s.port p with outbox := (s.port p).outbox ++ e.sent pkt } with
        trackers := t.trackers, channels := t.channels } ∧
      t.tracker p = l1 ++ l2 ∧ (∀ q : PortId, q ≠ p → t.tracker q = s.tracker q) ∧
      (∀ d : ChannelId, d ≠ c → t.channel d = s.channel d) ∧ (t.channel c).queue = q1 ++ q2 ∧
      (t.channel c).state = .online ∧ (t.channel c).slots = (s.channel c).slots ∧
      (∀ other, other ≠ op.line → (t.channel c).memory.read other = (s.channel c).memory.read other) ∧
      (∀ d, (s.channel c).memory.read op.line = .data d →
        (media = .clean → pkt = .rdReturn tag .ok e.generation d ∧ (t.channel c).memory.read op.line = .data d ∧
          (t.channel c).correctable = (s.channel c).correctable ∧ (t.channel c).firstError = (s.channel c).firstError) ∧
        (media = .correctable → pkt = .rdReturn tag .corrected e.generation d ∧
          (t.channel c).memory.read op.line = .data d ∧
          (t.channel c).correctable = satIncr 65535 (s.channel c).correctable ∧
          (t.channel c).firstError = (s.channel c).firstError)) ∧
      ((s.channel c).memory.read op.line ≠ .poison → media = .uncorrectable →
        pkt = .rdReturn tag .poisoned e.generation 0 ∧ (t.channel c).memory.read op.line = .poison ∧
        s.notesError t c op.line p.castSucc) ∧
      ((s.channel c).memory.read op.line = .poison →
        pkt = .rdReturn tag .poisoned e.generation 0 ∧ (t.channel c).memory.read op.line = .poison ∧
        s.sameErrors t c)

/-- A WRITE_FULL writes its 64 bytes whatever the line held, poison or an error too, completes DONE without reading the
line, and its entry is acknowledged, or leaves without a response when it is RETIRING; every other line is as it was
(R103). -/
def Obligations.FullWriteHealsItsLine : Prop :=
  ∀ (s : State) (c : ChannelId) (p : PortId) (tag : Byte) (media : MediaResult) (d : LineData)
    (q1 q2 : List Operation) (op : Operation) (l1 l2 : List Entry) (e : Entry),
    s.memoryLaw → (s.channel c).state = .online → (s.channel c).queue = q1 ++ op :: q2 →
    op.origin = .port p tag → op.action = .writeFull d → op.part = none →
    (∀ o ∈ q1, o.line ≠ op.line ∧ o.origin ≠ .port p tag) →
    s.tracker p = l1 ++ e :: l2 → e.kind = .write → e.opTag = tag → s.completes p e →
    (∀ e' ∈ l1 ++ l2, e'.kind = .write → e'.opTag ≠ tag) →
    ∃ t, exec (.writeComplete c p tag none media) s = .next t ∧
      t = { s.setPort p { s.port p with
          outbox := (s.port p).outbox ++ e.sent (.wrAck tag .done e.generation) } with
        trackers := t.trackers, channels := t.channels } ∧
      t.tracker p = l1 ++ l2 ∧ (∀ q : PortId, q ≠ p → t.tracker q = s.tracker q) ∧
      (∀ b : ChannelId, b ≠ c → t.channel b = s.channel b) ∧
      t.channel c = { s.channel c with queue := q1 ++ q2, memory := (t.channel c).memory } ∧
      (t.channel c).memory.read op.line = .data d ∧
      (∀ other, other ≠ op.line → (t.channel c).memory.read other = (s.channel c).memory.read other)

/-- A WRITE_PARTIAL on good data merges byte by byte and ends DONE, a corrected read counted; on a line it finds
UNCORRECTABLE or POISONED it writes the poison marker, keeps none of its bytes, and ends LINE_POISONED, an UNCORRECTABLE
one recorded with its origin (R104). A RETIRING entry leaves without a response. -/
def Obligations.PartialWriteMerges : Prop :=
  ∀ (s : State) (c : ChannelId) (p : PortId) (tag : Byte) (media : MediaResult) (mask : ByteMask) (d : LineData)
    (q1 q2 : List Operation) (op : Operation) (l1 l2 : List Entry) (e : Entry),
    s.memoryLaw → (s.channel c).state = .online → (s.channel c).queue = q1 ++ op :: q2 →
    op.origin = .port p tag → op.action = .writePartial mask d → op.part = none →
    (∀ o ∈ q1, o.line ≠ op.line ∧ o.origin ≠ .port p tag) →
    s.tracker p = l1 ++ e :: l2 → e.kind = .write → e.opTag = tag → s.completes p e →
    (∀ e' ∈ l1 ++ l2, e'.kind = .write → e'.opTag ≠ tag) →
    ∃ t st, exec (.writeComplete c p tag none media) s = .next t ∧
      t = { s.setPort p { s.port p with outbox := (s.port p).outbox ++ e.sent (.wrAck tag st e.generation) } with
        trackers := t.trackers, channels := t.channels } ∧
      t.tracker p = l1 ++ l2 ∧ (∀ q : PortId, q ≠ p → t.tracker q = s.tracker q) ∧
      (∀ b : ChannelId, b ≠ c → t.channel b = s.channel b) ∧ (t.channel c).queue = q1 ++ q2 ∧
      (t.channel c).state = .online ∧ (t.channel c).slots = (s.channel c).slots ∧
      (∀ other, other ≠ op.line → (t.channel c).memory.read other = (s.channel c).memory.read other) ∧
      (∀ old, (s.channel c).memory.read op.line = .data old → media ≠ .uncorrectable → st = .done ∧
        (∃ new, (t.channel c).memory.read op.line = .data new ∧ mergedBytes mask d old new) ∧
        s.sameErrors t c ∧
        (t.channel c).correctable =
          if media = .correctable then satIncr 65535 (s.channel c).correctable else (s.channel c).correctable) ∧
      ((s.channel c).memory.read op.line ≠ .poison → media = .uncorrectable →
        st = .linePoisoned ∧ (t.channel c).memory.read op.line = .poison ∧ s.notesError t c op.line p.castSucc) ∧
      ((s.channel c).memory.read op.line = .poison →
        st = .linePoisoned ∧ (t.channel c).memory.read op.line = .poison ∧ s.sameErrors t c)

/-- A DUAL entry AT_CHANNEL records each part as it completes (R82): it stays until both are done, and is then answered by
its source part alone, DONE, LINE_POISONED, or CHANNEL_DOWN when a fault aborted that part; the destination part's outcome
is not reported. A RETIRING one leaves without a response. Each part writes the line it names, and no other. -/
def Obligations.DualAnsweredBySourcePart : Prop :=
  (∀ (s : State) (c : ChannelId) (p : PortId) (tag : Byte) (media : MediaResult) (part : Part)
      (q1 q2 : List Operation) (op : Operation) (l1 l2 : List Entry) (e : Entry) (st : WriteStatus),
    (s.channel c).state = .online → (s.channel c).queue = q1 ++ op :: q2 →
    op.origin = .port p tag → op.part = some part →
    (∃ d, op.action = .writeFull d ∧ st = .done) ∨
      (∃ mask d, op.action = .writePartial mask d ∧
        st = if (s.channel c).memory.read op.line = .poison ∨ media = .uncorrectable then .linePoisoned else .done) →
    (∀ o ∈ q1, o.line ≠ op.line ∧ ¬ (o.origin = .port p tag ∧ o.part = some part)) →
    s.tracker p = l1 ++ e :: l2 → e.kind = .write → e.opTag = tag → s.completes p e →
    (∀ e' ∈ l1 ++ l2, e'.kind = .write → e'.opTag ≠ tag) →
    ∃ t, exec (.writeComplete c p tag (some part) media) s = .next t ∧ (t.channel c).queue = q1 ++ q2 ∧
      t = { s with ports := t.ports, trackers := t.trackers, channels := t.channels } ∧
      (∀ b : ChannelId, b ≠ c → t.channel b = s.channel b) ∧
      (∀ q : PortId, q ≠ p → t.tracker q = s.tracker q ∧ t.port q = s.port q) ∧
      (part = .source → e.destPart = false → t.ports = s.ports ∧
        t.tracker p = l1 ++ { e with sourcePart := some (if st = .done then .done else .linePoisoned) } :: l2) ∧
      (part = .source → e.destPart = true → t.tracker p = l1 ++ l2 ∧
        t.port p = { s.port p with outbox := (s.port p).outbox ++ e.sent (.wrAck tag st e.generation) }) ∧
      (part = .destination → e.sourcePart = none → t.ports = s.ports ∧
        t.tracker p = l1 ++ { e with destPart := true } :: l2) ∧
      (∀ o, part = .destination → e.sourcePart = some o → t.tracker p = l1 ++ l2 ∧
        t.port p = { s.port p with outbox := (s.port p).outbox ++ e.sent (match o with
          | .done => .wrAck tag .done e.generation
          | .linePoisoned => .wrAck tag .linePoisoned e.generation
          | .aborted => .wrAbort tag .channelDown (some e.generation)) }) ∧
      (s.memoryLaw →
        (∀ other, other ≠ op.line → (t.channel c).memory.read other = (s.channel c).memory.read other) ∧
        (∀ d, op.action = .writeFull d → (t.channel c).memory.read op.line = .data d) ∧
        (∀ mask d, op.action = .writePartial mask d →
          ((s.channel c).memory.read op.line = .poison ∨ media = .uncorrectable →
            (t.channel c).memory.read op.line = .poison) ∧
          (∀ old, (s.channel c).memory.read op.line = .data old → media ≠ .uncorrectable →
            ∃ new, (t.channel c).memory.read op.line = .data new ∧ mergedBytes mask d old new)))) ∧
  (∀ (c : ChannelId) (e : Entry) (src dst : Target), e.kind = .write → e.state = .atChannel →
    e.resolution = .dual src dst →
    (src.channel = c → e.sourcePart = none → e.destPart = false → dst.channel ≠ c →
      e.onOperationAbort c = .keep { e with sourcePart := some .aborted }) ∧
    (src.channel = c → e.sourcePart = none → e.destPart = true ∨ dst.channel = c →
      e.onOperationAbort c = .answer (.wrAbort e.opTag .channelDown (some e.generation))) ∧
    (src.channel ≠ c → dst.channel = c → e.sourcePart = none →
      e.onOperationAbort c = .keep { e with destPart := true }) ∧
    (∀ o, dst.channel = c → e.sourcePart = some o →
      e.onOperationAbort c = .answer (match o with
        | .done => .wrAck e.opTag .done e.generation
        | .linePoisoned => .wrAck e.opTag .linePoisoned e.generation
        | .aborted => .wrAbort e.opTag .channelDown (some e.generation))))

/-- A COPY_READ completes and its placeholder is supplied with the data read, or with the poison marker, which adds 1 to
the poisoned-line count; its own line, the correctable count and the error record are as R102 gives, with origin Copy
Engine. The COPY_WRITE then writes its line and the pair ends; the end of the last pair with the cursor at the length
enters FINISHING, where a source-side entry keeps it; without one the relocation commits in the same step, and its end record is posted with
COMPLETION_POSTED to an OPEN holder, or held. -/
def Obligations.CopyPairCompletes : Prop :=
  (∀ (s : State) (c : ChannelId) (r : Relocation) (n : PairNumber) (media : MediaResult) (x : PairRecord) (src : Target)
      (q1 q2 : List Operation) (op : Operation) (p1 p2 : List PairRecord),
    s.memoryLaw → s.power = .running → s.copyEngine = .running r → r.pairs = p1 ++ x :: p2 → x.number = n →
    (∀ y ∈ p1 ++ p2, y.number ≠ n ∧ y.ended = false) →
    x.form = .pair src .outstanding → x.writePart = .placeholder →
    (s.channel c).state = .online → (s.channel c).queue = q1 ++ op :: q2 → op.origin = .copy n → op.action = .copyRead →
    (∀ o ∈ q1, o.line ≠ op.line ∧ ¬ (o.origin = .copy n ∧ o.action = .copyRead)) →
    ∃ (t : State) (r' : Relocation) (content : LineContent), exec (.copyReadComplete c n media) s = .next t ∧
      t.copyEngine = .running r' ∧ t = { s with channels := t.channels, copyEngine := t.copyEngine } ∧
      r' = { r with pairs := p1 ++ { x with form := .pair src .completed, writePart := .supplied } :: p2,
                    poisonedLines := r.poisonedLines + (if content = .poison then 1 else 0) } ∧
      (∀ b : ChannelId, (t.channel b).queue =
        if b = x.dst.channel then
          (if b = c then q1 ++ q2 else (s.channel b).queue).map
            (fun o => if o.origin = .copy n ∧ o.action = .copyWrite none then { o with action := .copyWrite (some content) }
              else o)
        else if b = c then q1 ++ q2 else (s.channel b).queue) ∧
      (∀ d, (s.channel c).memory.read op.line = .data d → media ≠ .uncorrectable → content = .data d) ∧
      ((s.channel c).memory.read op.line = .poison ∨ media = .uncorrectable → content = .poison) ∧
      (∀ b : ChannelId, b ≠ c → t.channel b = { s.channel b with queue := (t.channel b).queue }) ∧
      (t.channel c).state = .online ∧ (t.channel c).slots = (s.channel c).slots ∧
      (∀ other, other ≠ op.line → (t.channel c).memory.read other = (s.channel c).memory.read other) ∧
      (t.channel c).correctable = (if (s.channel c).memory.read op.line ≠ .poison ∧ media = .correctable then
        satIncr 65535 (s.channel c).correctable else (s.channel c).correctable) ∧
      ((s.channel c).memory.read op.line ≠ .poison → media = .uncorrectable →
        (t.channel c).memory.read op.line = .poison ∧ s.notesError t c op.line 4) ∧
      ((s.channel c).memory.read op.line = .poison ∨ media ≠ .uncorrectable →
        (t.channel c).memory.read op.line = (s.channel c).memory.read op.line ∧ s.sameErrors t c)) ∧
  (∀ (s : State) (c : ChannelId) (r : Relocation) (n : PairNumber) (content : LineContent)
      (q1 q2 : List Operation) (op : Operation) (p1 p2 : List PairRecord) (x : PairRecord),
    s.memoryLaw → s.power = .running → s.copyEngine = .running r → r.pairs = p1 ++ x :: p2 → x.number = n →
    (∀ y ∈ p1 ++ p2, y.number ≠ n ∧ y.ended = false) → (∀ src, x.form ≠ .pair src .outstanding) →
    (s.channel c).state = .online → (s.channel c).queue = q1 ++ op :: q2 → op.origin = .copy n →
    op.action = .copyWrite (some content) →
    (∀ o ∈ q1, o.line ≠ op.line ∧ ¬ (o.origin = .copy n ∧ ∃ y, o.action = .copyWrite y)) →
    ∃ (t : State), exec (.copyWriteComplete c n) s = .next t ∧
      (∀ b : ChannelId, b ≠ c → t.channel b = s.channel b) ∧
      t.channel c = { s.channel c with queue := q1 ++ q2, memory := (t.channel c).memory } ∧
      (t.channel c).memory.read op.line = content ∧
      (∀ other, other ≠ op.line → (t.channel c).memory.read other = (s.channel c).memory.read other) ∧
      (r.phase ≠ .copying ∨ p1 ++ p2 ≠ [] ∨ r.cursor ≠ r.lengthLines ∨
          (∃ p : PortId, ∃ e ∈ s.tracker p, e.extent = r.extent ∧ ∀ a, e.resolution ≠ .dest a) →
        t = { s with channels := t.channels, copyEngine := t.copyEngine } ∧
        t.copyEngine = .running { r with
          pairs := p1 ++ p2,
          phase := if r.phase = .copying ∧ p1 ++ p2 = [] ∧ r.cursor = r.lengthLines then .finishing else r.phase }) ∧
      (∀ body, r.phase = .copying → p1 ++ p2 = [] → r.cursor = r.lengthLines → s.extent r.extent = .relocating body →
        (∀ p : PortId, ∀ e ∈ s.tracker p, e.extent = r.extent → ∃ a, e.resolution = .dest a) →
        t = { s with ports := t.ports, noticeQueues := t.noticeQueues, extents := t.extents, channels := t.channels,
                     completions := t.completions, copyEngine := t.copyEngine } ∧
        (∀ p : PortId, (t.port p).quiet = (s.port p).quiet) ∧
        (∀ y : ExtentId, y ≠ r.extent → t.extent y = s.extent y) ∧
        t.extent r.extent = .active { body with poolBase := r.targetBase, generation := body.generation + 1 } ∧
        (∀ rec : CompletionRecord, rec =
            { changeId := 0, kind := .relocationEnd, extent := some r.extent, port := none, submitter := none,
              outcome := .relocationDone r.poisonedLines r.destFault, generationAfter := some (body.generation + 1) } →
          (s.placeFree = true → t.copyEngine = .idle ∧ t.completions = s.completions ++ [rec] ∧
            s.sendsNotices t [] (some rec)) ∧
          (s.placeFree = false → t.copyEngine = .ending rec ∧ t.completions = s.completions ∧
            s.sendsNotices t [] none))))

/-- The end of detection answers the held CHANNEL_ONLINE, if its path still waits: a module fault gives FAULTED with the
slots as before; no modules, and a capacity below the consumption, give back the earlier state; otherwise the slots are
written and the fill begins, POISON when the layout uses the channel and ZERO when not. FILL_END then makes it ONLINE with
every line filled. Channel-local segments and lines are laid over the modules in slot order, and none lies at or above the
capacity (R91). -/
def Obligations.DetectionAndFillEnd : Prop :=
  (∀ (s : State) (c : ChannelId) (ff : Bool) (req : Option MgmtPath) (a b d e : SlotReport), s.power = .running →
    (s.channel c).state = .detecting ff req →
      (detectedSlots a b d e = none → ∃ t : State,
        exec (.detectionEnd c a b d e) s = .next (t.answerDetection req (.refused .moduleFault) []) ∧
        (t.channel c).state = .faulted ∧ (t.channel c).slots = (s.channel c).slots ∧
        (t.channel c).firstError ≠ none ∧ t.extents = s.extents ∧ t.layout = s.layout) ∧
      (∀ slots, detectedSlots a b d e = some slots → slotCapacity slots = 0 →
        exec (.detectionEnd c a b d e) s = .next ((s.setChannel c { s.channel c with
          state := if ff then .faulted else .offline }).answerDetection req (.refused .noModules) [])) ∧
      (∀ slots, detectedSlots a b d e = some slots → 0 < slotCapacity slots →
        slotCapacity slots < s.layout.consumption c →
        exec (.detectionEnd c a b d e) s = .next ((s.setChannel c { s.channel c with
          state := if ff then .faulted else .offline }).answerDetection req (.refused .capacity)
            (le 2 (slotCapacity slots)))) ∧
      (∀ slots, detectedSlots a b d e = some slots → 0 < slotCapacity slots →
        s.layout.consumption c ≤ slotCapacity slots →
        exec (.detectionEnd c a b d e) s = .next ((s.setChannel c { s.channel c with
          state := .filling, slots := slots,
          fillKind := if 0 < s.layout.consumption c then .poison else .zero }).answerDetection req .ok
            (le 2 (slotCapacity slots) ++ [if 0 < s.layout.consumption c then 1 else 0])))) ∧
  (∀ (s : State) (st : MgmtStatus) (data : List Byte), s.answerDetection none st data = s ∧
    ∀ path, s.answerDetection (some path) st data = s.answered path 0x2A st data) ∧
  (∀ (s : State) (c : ChannelId), s.power = .running → (s.channel c).state = .filling →
    ∃ m : Memory, exec (.fillEnd c) s = .next (s.setChannel c { s.channel c with state := .online, memory := m }) ∧
      ∀ line, m.read line = if (s.channel c).fillKind = .zero then .data 0 else .poison) ∧
  (∀ (x : Channel) (segment : Nat),
    (x.capacity ≤ segment → x.moduleOfSegment segment = none) ∧
    (∀ (slot : Fin 4) (size place : Nat), x.slots[slot] = some size → place < size →
      segment = ((x.slots.toList.take slot.val).map (fun sl => sl.getD 0)).sum + place →
      x.moduleOfSegment segment = some (slot.val, place)) ∧
    (∀ slot place, x.moduleOfSegment segment = some (slot, place) → ∀ k : Nat, k < 4194304 →
      x.moduleOfLine (segment * 4194304 + k) = some (slot, place * 4194304 + k)))

/-- A fault takes an ONLINE or INITIALISING channel to FAULTED with an empty queue, its slots kept and its first error
record full, the other channel's state and contents unchanged. Every tracker's entries leave, stay or lose a part as R82,
R83 and R88 give, each that leaves answered CHANNEL_DOWN or by its source part while its port receives packets, and
nothing else is sent but CHANNEL_LOST and the answer to a detection; CHANNEL_LOST enters the queue of an OPEN port with
room, is counted lost in a full one, and reaches no other port. A relocation's pairs lose the parts at the channel, a
placeholder whose read is lost is supplied with poison and counted (R152); in COPYING a target range or COPY_WRITE at the
channel starts the abandon, in FINISHING it is noted, in ABANDONING it changes nothing (R159, R160). A detection is
answered MODULE_FAULT. A fault is ignored in OFFLINE and FAULTED, and noted for the end of a bridge reset in an ONLINE
channel, where a second one changes nothing more (the model's choice, log 38). -/
def Obligations.ChannelFaults : Prop :=
  (∀ (s : State) (c : ChannelId), s.power = .running →
    ((s.channel c).state = .online ∨ (s.channel c).state = .filling ∨ (∃ ff req, (s.channel c).state = .detecting ff req) →
      ∃ t, exec (.channelFault c) s = .next t ∧ (t.channel c).state = .faulted ∧ (t.channel c).queue = [] ∧
        (t.channel c).slots = (s.channel c).slots ∧
        ((s.channel c).firstError = none → (t.channel c).firstError = some .fault) ∧
        ((s.channel c).firstError ≠ none → (t.channel c).firstError = (s.channel c).firstError ∧
          (t.channel c).furtherErrors = satIncr 255 (s.channel c).furtherErrors) ∧
        (∀ d : ChannelId, d ≠ c → (t.channel d).state = (s.channel d).state ∧
          (t.channel d).memory = (s.channel d).memory) ∧
        t = { s with ports := t.ports, trackers := t.trackers, noticeQueues := t.noticeQueues, channels := t.channels,
                     copyEngine := t.copyEngine, i2c := t.i2c, slots := t.slots, fresh := t.fresh } ∧
        (∀ p : PortId, (t.port p).quiet = (s.port p).quiet) ∧
        (∀ p : PortId, t.tracker p = (s.tracker p).filterMap (Entry.afterFault c)) ∧
        (∀ p : PortId, s.hears p → ∀ pkt, (∃ e ∈ s.tracker p, e.faultAnswer c = some pkt) → pkt ∈ (t.port p).outbox) ∧
        (∀ (p : PortId) (pkt : OutPacket), pkt ∈ (t.port p).outbox → pkt ∈ (s.port p).outbox ∨
          (∃ e ∈ s.tracker p, e.faultAnswer c = some pkt) ∨ (∃ n, pkt = .notice n ∧ n.body = .channelLost c) ∨
          (∃ ff, (s.channel c).state = .detecting ff (some (.inBand p)) ∧
            pkt = .mgmtResponse { kind := 0x2A, status := .refused .moduleFault, data := [] })) ∧
        (∀ p : PortId,
          ((s.port p).state ≠ .opened → t.noticeQueue p = s.noticeQueue p) ∧
          ((s.port p).state = .opened → 8 ≤ (s.noticeQueue p).notices.length →
            t.noticeQueue p = { s.noticeQueue p with lost := satIncr 255 (s.noticeQueue p).lost }) ∧
          ((s.port p).state = .opened → (s.noticeQueue p).notices.length < 8 → ∃ n : Notice,
            n = { sequence := (s.noticeQueue p).next, body := .channelLost c, lostBefore := (s.noticeQueue p).lost } ∧
            t.noticeQueue p = { notices := (s.noticeQueue p).notices ++ [n], next := (s.noticeQueue p).next + 1,
                                lost := 0 } ∧ .notice n ∈ (t.port p).outbox)) ∧
        ((∀ r, s.copyEngine ≠ .running r) → t.copyEngine = s.copyEngine) ∧
        (∀ r, s.copyEngine = .running r → ∃ r', t.copyEngine = .running r' ∧
          r' = { r with phase := r'.phase, pairs := r'.pairs, poisonedLines := r'.poisonedLines,
                        destFault := r'.destFault } ∧
          r'.pairs = (r.pairs.map (PairRecord.faulted c)).filter (fun x => !x.ended) ∧
          r'.poisonedLines = r.poisonedLines + (r.pairs.filter (fun x => x.losesRead c)).length ∧
          (∀ d : ChannelId, d ≠ c → (t.channel d).queue = (s.channel d).queue.map (fun o =>
            if o.action = .copyWrite none ∧
                ∃ x ∈ r.pairs, x.losesRead c = true ∧ x.dst.channel = d ∧ o.origin = .copy x.number then
              { o with action := .copyWrite (some .poison) }
            else o)) ∧
          (r.phase = .copying →
            (s.targetOn r c ∨ (∃ x ∈ r.pairs, x.writesAt c = true) →
              r'.phase = .abandoning .destFault ∧ r'.destFault = true) ∧
            (¬ s.targetOn r c → (∀ x ∈ r.pairs, x.writesAt c = false) →
              r'.phase = .copying ∧ r'.destFault = r.destFault)) ∧
          (r.phase = .finishing → r'.phase = .finishing ∧ (s.targetOn r c → r'.destFault = true) ∧
            (¬ s.targetOn r c → r'.destFault = r.destFault)) ∧
          (∀ reason, r.phase = .abandoning reason → r'.phase = r.phase ∧ r'.destFault = r.destFault)) ∧
        (∀ ff, (s.channel c).state = .detecting ff (some .i2c) →
          t.i2c = .ready { kind := 0x2A, status := .refused .moduleFault, data := [] }) ∧
        ((∀ ff, (s.channel c).state ≠ .detecting ff (some .i2c)) → t.i2c = s.i2c) ∧
        (∀ p : PortId, (∀ ff, (s.channel c).state ≠ .detecting ff (some (.inBand p))) → t.slot p = s.slot p) ∧
        (∀ ff p, (s.channel c).state = .detecting ff (some (.inBand p)) → t.slot p = none ∧
          (s.hears p → .mgmtResponse { kind := 0x2A, status := .refused .moduleFault, data := [] } ∈
            (t.port p).outbox))) ∧
    ((s.channel c).state = .offline ∨ (s.channel c).state = .faulted → exec (.channelFault c) s = .next s)) ∧
  (∀ (s : State) (c : ChannelId), s.power = .inReset → (s.channel c).state = .online →
    exec (.channelFault c) s = .next (s.setChannel c { s.channel c with retentionFault := true }))

/-! ## Changes -/

/-- Immediate changes that pass their checks commit in the step in which they start: the fields and the generation of
Table 39, the change off the queue, and the record DONE posted; MAPPED or
UPGRADED goes to the port that Table 39 names while it is OPEN, COMPLETION_POSTED to an OPEN holder (in which order is left
open, log 14), and nothing else changes. -/
def Obligations.ImmediateChangesCommit : Prop :=
  ∀ (s : State) (ch : ChangeRecord), s.starts ch →
    (∀ x base n sh, ch.op = .create x base n sh → firstFailure (s.createChecks x base n) = none →
      ∃ t, exec .create s = .next t ∧
        t.extent x = .active { poolBase := base, length := n, share := sh, generation := 0,
                               mapping := Vector.replicate 4 none } ∧
        s.endedTelling t (extentRecord ch x .doneImmediate (some 0)) [] ∧ s.sameBeside t (some x) ∧
        t.copyEngine = s.copyEngine) ∧
    (∀ x, ch.op = .retire x → firstFailure (s.retireChecks x) = none →
      ∃ t, exec .retire s = .next t ∧ t.extent x = .free ∧
        s.endedTelling t (extentRecord ch x .doneImmediate none) [] ∧ s.sameBeside t (some x) ∧
        t.copyEngine = s.copyEngine) ∧
    (∀ x p wb r b, ch.op = .map x p wb r → s.activeAs x b → firstFailure (s.mapChecks x p wb r) = none →
      ∃ t, exec .map s = .next t ∧
        t.extent x = .active { b with mapping := b.mapping.set p (some { windowBase := wb, rights := r }),
                                      generation := b.generation + 1 } ∧
        s.endedTelling t (extentRecord ch x .doneImmediate (some (b.generation + 1)))
          [(p, .mapped x ch.id (b.generation + 1) wb r)] ∧ s.sameBeside t (some x) ∧
        t.copyEngine = s.copyEngine) ∧
    (∀ x sh b, ch.op = .setShare x sh → s.activeAs x b → firstFailure (s.setShareChecks x sh) = none →
      ∃ t, exec .setShare s = .next t ∧ t.extent x = .active { b with share := sh } ∧
        s.endedTelling t (extentRecord ch x .doneImmediate (some b.generation)) [] ∧ s.sameBeside t (some x) ∧
        t.copyEngine = s.copyEngine) ∧
    (∀ p n, ch.op = .setWindow p n → firstFailure (s.setWindowChecks p n) = none →
      ∃ t, exec .setWindow s = .next t ∧
        (t.port p).quiet = ({ s.port p with
          windowSize := n
          acceptance := if (s.port p).state = .awaitOpen then none else (s.port p).acceptance } : LinkPort).quiet ∧
        (∀ q : PortId, q ≠ p → (t.port q).quiet = (s.port q).quiet) ∧
        t = { s with ports := t.ports, noticeQueues := t.noticeQueues, changeQueue := t.changeQueue, active := t.active,
                     completions := t.completions, fresh := t.fresh } ∧
        s.endedTelling t { changeId := ch.id, kind := .setWindow, extent := none, port := some p,
                           submitter := some ch.submitter, outcome := .doneImmediate, generationAfter := none } []) ∧
    (∀ x p r c f b m, ch.op = .setRights x p r c f → s.activeAs x b → b.mapping[p] = some m →
      firstFailure (s.setRightsChecks x p r) = none →
      (m.rights = r → ∃ t, exec .setRights s = .next t ∧ t.extent x = .active b ∧
        s.endedTelling t (extentRecord ch x .doneImmediate (some b.generation)) [] ∧ s.sameBeside t (some x) ∧
        t.copyEngine = s.copyEngine) ∧
      (m.rights = .read → r = .readWrite → ∃ t, exec .setRights s = .next t ∧
        t.extent x = .active { b with mapping := b.mapping.set p (some { m with rights := .readWrite }),
                                      generation := b.generation + 1 } ∧
        s.endedTelling t (extentRecord ch x .doneImmediate (some (b.generation + 1)))
          [(p, .upgraded x ch.id (b.generation + 1))] ∧ s.sameBeside t (some x) ∧ t.copyEngine = s.copyEngine))

/-- A change that fails a check leaves every extent, window, tracker and channel as it was, posts REJECTED with the reason
of the first failing check, leaves the queue, and sends no notice but COMPLETION_POSTED to an OPEN holder. The checks of every kind are those of Table 38 in its order, the first
that fails deciding; of a RELOCATE, ENGINE_BUSY comes before OVERLAP_POOL although R5 has a second RELOCATE that touches
the occupied target range rejected OVERLAP_POOL (the model's choice, log 37). -/
def Obligations.RejectedChangesChangeNothing : Prop :=
  (∀ (s : State) (ch : ChangeRecord) (c : Instr) (checks : List (Bool × RejectReason)) (reason : RejectReason),
    s.starts ch → firstFailure checks = some reason →
    (∃ x base n sh, c = .create ∧ ch.op = .create x base n sh ∧ checks = s.createChecks x base n) ∨
    (∃ x, c = .retire ∧ ch.op = .retire x ∧ checks = s.retireChecks x) ∨
    (∃ x p wb r, c = .map ∧ ch.op = .map x p wb r ∧ checks = s.mapChecks x p wb r) ∨
    (∃ x sh, c = .setShare ∧ ch.op = .setShare x sh ∧ checks = s.setShareChecks x sh) ∨
    (∃ p n, c = .setWindow ∧ ch.op = .setWindow p n ∧ checks = s.setWindowChecks p n) ∨
    (∃ x p r cf fo, c = .setRights ∧ ch.op = .setRights x p r cf fo ∧ checks = s.setRightsChecks x p r) ∨
    (∃ x p cf fo, c = .unmap ∧ ch.op = .unmap x p cf fo ∧ checks = s.unmapChecks x p) ∨
    (∃ x p q wb r cf fo, c = .transfer ∧ ch.op = .transfer x p q wb r cf fo ∧ checks = s.transferChecks x p q wb r) ∨
    (∃ x base, c = .relocate ∧ ch.op = .relocate x base ∧ checks = s.relocateChecks x base) →
    ∃ t, exec c s = .next t ∧ s.sameBeside t none ∧ t.copyEngine = s.copyEngine ∧
      s.endedTelling t { changeId := ch.id, kind := ch.op.recordKind, extent := ch.op.extent?, port := ch.op.recordPort,
                         submitter := some ch.submitter, outcome := .rejected reason,
                         generationAfter := ch.op.extent?.bind s.generationOf } []) ∧
  (∀ (s : State) (x : ExtentId) (base n : Nat),
    decides
      [(s.layout.pool = .offline, .poolOffline), (∃ b, s.extent x = .relocating b, .extentBusy),
       (s.extent x ≠ .free, .extentState), (s.layout.size < base + n, .range),
       (s.occupied base n, .overlapPool), (s.faultedUnder base n, .channelDown)]
      (firstFailure (s.createChecks x base n))) ∧
  (∀ (s : State) (x : ExtentId) (p q : PortId) (wb base : Nat) (r : Rights) (sh : ShareMode)
      (checks : List (Bool × RejectReason)),
    checks = s.retireChecks x ∨ checks = s.mapChecks x p wb r ∨ checks = s.setShareChecks x sh ∨
      checks = s.setRightsChecks x p r ∨ checks = s.unmapChecks x p ∨ checks = s.transferChecks x p q wb r ∨
      checks = s.relocateChecks x base →
    (∀ b, s.extent x = .relocating b → firstFailure checks = some .extentBusy) ∧
    (s.extent x = .free ∨ (∃ b id, s.extent x = .changing b id) → firstFailure checks = some .extentState)) ∧
  (∀ (s : State) (x : ExtentId) (b : ExtentBody), s.activeAs x b →
    decides [(∃ p : PortId, b.mapping[p] ≠ none, .alreadyMapped)] (firstFailure (s.retireChecks x)) ∧
    (∀ (p : PortId) (wb : Nat) (r : Rights),
      decides
        [(b.mapping[p] ≠ none, .alreadyMapped), ((s.port p).windowSize < wb + b.length, .windowSize),
         (s.windowTaken x p wb b.length, .overlapWindow),
         (r = .readWrite ∧ b.share = .exclusive ∧
            twoWriters (b.mapping.set p (some { windowBase := wb, rights := r })), .shareRule)]
        (firstFailure (s.mapChecks x p wb r))) ∧
    (∀ sh : ShareMode,
      decides [(sh = .exclusive ∧ twoWriters b.mapping, .shareRule)] (firstFailure (s.setShareChecks x sh))) ∧
    (∀ (p : PortId) (r : Rights),
      decides
        [(b.mapping[p] = none, .notMapped),
         (∃ m, b.mapping[p] = some m ∧ m.rights = .read ∧ r = .readWrite ∧ b.share = .exclusive ∧
            twoWriters (b.mapping.set p (some { m with rights := .readWrite })), .shareRule)]
        (firstFailure (s.setRightsChecks x p r))) ∧
    (∀ p : PortId, decides [(b.mapping[p] = none, .notMapped)] (firstFailure (s.unmapChecks x p))) ∧
    (∀ (p q : PortId) (wb : Nat) (r : Rights),
      decides
        [(b.mapping[p] = none, .notMapped), (b.mapping[q] ≠ none, .alreadyMapped),
         ((s.port q).windowSize < wb + b.length, .windowSize), (s.windowTaken x q wb b.length, .overlapWindow),
         (b.share = .exclusive ∧
            twoWriters ((b.mapping.set p none).set q (some { windowBase := wb, rights := r })), .shareRule)]
        (firstFailure (s.transferChecks x p q wb r))) ∧
    (∀ base : Nat,
      decides
        [(s.copyEngine ≠ .idle, .engineBusy), (s.layout.size < base + b.length, .range),
         (s.occupied base b.length, .overlapPool), (s.faultedUnder base b.length, .channelDown)]
        (firstFailure (s.relocateChecks x base)))) ∧
  (∀ (s : State) (p : PortId) (size : Nat),
    decides
      [((s.port p).state = .opened ∨ (s.port p).state = .closing, .portOpen),
       (∃ x : ExtentId, ∃ b m, (s.extent x).body? = some b ∧ b.mapping[p] = some m ∧ size < m.windowBase + b.length,
          .windowSize)]
      (firstFailure (s.setWindowChecks p size)))

/-- A validated UNMAP, TRANSFER or downgrade starts a handover: the extent CHANGING with the change's id and its fields
as they were; CONFIRM with its timer and its PENDING notice, of the kind, extent, change and current generation, sent or
held, when the confirm flag is set and the losing port is OPEN, else DRAIN with its timer and no notice while the losing
port's tracker holds a counted entry; without one it commits at once, with the notices of Table 42. -/
def Obligations.HandoversStart : Prop :=
  ∀ (s : State) (ch : ChangeRecord) (x : ExtentId) (p : PortId) (b : ExtentBody) (confirm force : Bool)
    (c : Instr) (kind : HandoverKind),
    s.starts ch → s.activeAs x b →
    (c = .unmap ∧ kind = .unmap ∧ ch.op = .unmap x p confirm force ∧ firstFailure (s.unmapChecks x p) = none) ∨
    (∃ q wb r, c = .transfer ∧ kind = .transfer q wb r ∧ ch.op = .transfer x p q wb r confirm force ∧
      firstFailure (s.transferChecks x p q wb r) = none) ∨
    (∃ m, c = .setRights ∧ kind = .downgrade ∧ ch.op = .setRights x p .read confirm force ∧
      firstFailure (s.setRightsChecks x p .read) = none ∧ b.mapping[p] = some m ∧ m.rights = .readWrite) →
    (confirm = true → (s.port p).state = .opened →
      ∃ t h, exec c s = .next t ∧ t.extent x = .changing b ch.id ∧ t.active = some h ∧ t.changeQueue = s.changeQueue ∧
        t.completions = s.completions ∧ h.change = ch ∧ h.extent = x ∧ h.losing = p ∧ h.kind = kind ∧
        h.force = force ∧ h.phase = .confirm ∧ h.confirmTimer = some s.limits.confirm ∧ h.drainTimer = none ∧
        ((s.noticeQueue p).notices.length < 8 → h.pendingNotice = .sent (s.noticeQueue p).next ∧ ∃ n : Notice,
          kind.warns x ch.id b.generation n.body ∧ n.sequence = (s.noticeQueue p).next ∧
          n.lostBefore = (s.noticeQueue p).lost ∧
          t.noticeQueue p = { notices := (s.noticeQueue p).notices ++ [n], next := (s.noticeQueue p).next + 1,
                              lost := 0 } ∧
          (t.port p).outbox = (s.port p).outbox ++ [.notice n] ∧
          ∀ q : PortId, q ≠ p → t.noticeQueue q = s.noticeQueue q ∧ t.port q = s.port q) ∧
        (8 ≤ (s.noticeQueue p).notices.length → h.pendingNotice = .held ∧ s.sendsNotices t [] none) ∧
        s.sameBeside t (some x)) ∧
    ((confirm = false ∨ (s.port p).state ≠ .opened) →
      (∃ e ∈ s.tracker p, e.extent = x ∧ (kind = .downgrade → e.kind = .write)) →
      ∃ t h, exec c s = .next t ∧ t.extent x = .changing b ch.id ∧ t.active = some h ∧ t.changeQueue = s.changeQueue ∧
        t.completions = s.completions ∧ h.change = ch ∧ h.extent = x ∧ h.losing = p ∧ h.kind = kind ∧
        h.force = force ∧ h.phase = .drain ∧ h.drainTimer = some s.limits.drain ∧ h.confirmTimer = none ∧
        h.confirmation = some (if confirm then .portNotOpen else .notRequested) ∧ s.sameBeside t (some x) ∧
        s.sendsNotices t [] none) ∧
    ((confirm = false ∨ (s.port p).state ≠ .opened) →
      (∀ e ∈ s.tracker p, e.extent = x → kind = .downgrade ∧ e.kind = .read) →
      ∃ t notices, exec c s = .next t ∧ t.extent x = .active (kind.apply p b).advance ∧ s.sameBeside t (some x) ∧
        kind.tells p x ch.id (b.generation + 1) notices ∧
        s.endedTelling t (extentRecord ch x (.doneHandover (if confirm then .portNotOpen else .notRequested))
          (some (b.generation + 1))) notices)

/-- A validated RELOCATE starts the copy: the extent RELOCATING with its fields as they were, the Copy Engine RUNNING in
COPYING from cursor 0, and the record ACCEPTED posted with the current generation; no notice goes out but COMPLETION_POSTED
to an OPEN holder. -/
def Obligations.RelocateStarts : Prop :=
  ∀ (s : State) (ch : ChangeRecord) (x : ExtentId) (base : Nat) (b : ExtentBody),
    s.starts ch → ch.op = .relocate x base → s.activeAs x b → firstFailure (s.relocateChecks x base) = none →
    ∃ t, exec .relocate s = .next t ∧ t.extent x = .relocating b ∧
      t.copyEngine = .running { extent := x, sourceBase := b.poolBase, targetBase := base,
                                lengthLines := b.length * 4194304, phase := .copying, cursor := 0, pairs := [],
                                poisonedLines := 0, destFault := false } ∧
      s.endedTelling t (extentRecord ch x .accepted (some b.generation)) [] ∧ s.sameBeside t (some x)

/-- The confirm timer's expiry rolls back CONFIRM_TIMEOUT; the drain timer's without force rolls back DRAIN_TIMEOUT with
the count, and the port's entries stay and its requests pass again (R133); with force it removes the waiting counted
entries of the losing port and no other, answers each FORCED, and waits on without a timer for those that are left, or
commits in the same step when none is. A rollback leaves the extent ACTIVE with the fields it had, and
sends RESTORED to the losing port when a PENDING notice was sent (R136); the commit sends the notices of Table 42 (their
order against the aborts is left open, log 15); each end sends COMPLETION_POSTED to an OPEN holder. -/
def Obligations.HandoverTimersExpire : Prop :=
  ∀ (s : State) (h : Handover) (b : ExtentBody), s.power = .running → s.active = some h →
    s.extent h.extent = .changing b h.change.id → h.change.op.extent? = some h.extent → h.change.op.recordPort = none →
    (h.phase = .confirm → h.confirmTimer ≠ none →
      ∃ t notices, exec .confirmTimerExpiry s = .next t ∧ t.extent h.extent = .active b ∧
        h.restores b.generation notices ∧
        s.endedTelling t (extentRecord h.change h.extent .confirmTimeout (some b.generation)) notices ∧
        s.sameBeside t (some h.extent) ∧ t.copyEngine = s.copyEngine) ∧
    (h.phase = .drain → h.drainTimer ≠ none → h.force = false → s.countedEntries h ≠ 0 →
      ∃ t notices, exec .drainTimerExpiry s = .next t ∧ t.extent h.extent = .active b ∧
        h.restores b.generation notices ∧
        s.endedTelling t (extentRecord h.change h.extent (.drainTimeout (s.countedEntries h)) (some b.generation))
          notices ∧
        (∀ (p : PortId) (kind : ReqKind), t.isMoving p kind h.extent = false) ∧
        s.sameBeside t (some h.extent) ∧ t.copyEngine = s.copyEngine) ∧
    (h.phase = .drain → h.drainTimer ≠ none → h.force = true →
      (∃ e ∈ s.tracker h.losing, e.extent = h.extent ∧ (h.kind = .downgrade → e.kind = .write) ∧ e.waiting = false) →
      ∃ t, exec .drainTimerExpiry s = .next t ∧
        t = { s with ports := t.ports, trackers := t.trackers, active := t.active } ∧
        (∀ p : PortId, (t.port p).quiet = (s.port p).quiet ∧
          (p ≠ h.losing → t.tracker p = s.tracker p ∧ t.port p = s.port p)) ∧
        t.active = some { h with
          forced := true, abortedCount := ((s.tracker h.losing).filter h.forceTakes).length, drainTimer := none } ∧
        t.tracker h.losing = (s.tracker h.losing).filter (fun e => !h.forceTakes e) ∧
        ((s.port h.losing).state = .awaitOpen ∨ (s.port h.losing).state = .opened ∨ (s.port h.losing).state = .closing →
          ∃ sent, (t.port h.losing).outbox = (s.port h.losing).outbox ++ sent ∧
            sent.Perm (((s.tracker h.losing).filter h.forceTakes).map (fun e => match e.kind with
              | .read => .rdAbort e.opTag .forced (some e.generation)
              | .write => .wrAbort e.opTag .forced (some e.generation)))) ∧
        ((s.port h.losing).state ≠ .awaitOpen → (s.port h.losing).state ≠ .opened →
          (s.port h.losing).state ≠ .closing → (t.port h.losing).outbox = (s.port h.losing).outbox)) ∧
    (∀ cf, h.phase = .drain → h.drainTimer ≠ none → h.force = true → h.confirmation = some cf →
      s.countedEntries h ≠ 0 →
      (∀ e ∈ s.tracker h.losing, e.extent = h.extent → (h.kind = .downgrade → e.kind = .write) → e.waiting = true) →
      ∃ t b' notices rec, exec .drainTimerExpiry s = .next t ∧ t.extent h.extent = .active b' ∧ h.commits b b' ∧
        rec = extentRecord h.change h.extent
          (.forcedDone cf ((s.tracker h.losing).filter h.forceTakes).length) (some (b.generation + 1)) ∧
        s.endedWith t rec ∧ h.kind.tells h.losing h.extent h.change.id (b.generation + 1) notices ∧
        t = { s with ports := t.ports, trackers := t.trackers, noticeQueues := t.noticeQueues, extents := t.extents,
                     changeQueue := t.changeQueue, active := t.active, completions := t.completions,
                     fresh := t.fresh } ∧
        (∀ p : PortId, (t.port p).quiet = (s.port p).quiet ∧ (p ≠ h.losing → t.tracker p = s.tracker p)) ∧
        (∀ y : ExtentId, y ≠ h.extent → t.extent y = s.extent y) ∧
        t.tracker h.losing = (s.tracker h.losing).filter (fun e => !h.forceTakes e) ∧
        (∀ p : PortId, p ≠ h.losing → ∃ sent, s.takesNotices t p notices (some rec) sent ∧
          (t.port p).outbox = (s.port p).outbox ++ sent) ∧
        (∃ sent, s.takesNotices t h.losing notices (some rec) sent ∧
          ((s.port h.losing).state = .awaitOpen ∨ (s.port h.losing).state = .opened ∨
              (s.port h.losing).state = .closing →
            ∃ packets, (t.port h.losing).outbox = (s.port h.losing).outbox ++ packets ∧ sent.Sublist packets ∧
              packets.Perm (((s.tracker h.losing).filter h.forceTakes).map (fun e => match e.kind with
                | .read => .rdAbort e.opTag .forced (some e.generation)
                | .write => .wrAbort e.opTag .forced (some e.generation)) ++ sent)) ∧
          ((s.port h.losing).state ≠ .awaitOpen → (s.port h.losing).state ≠ .opened →
            (s.port h.losing).state ≠ .closing → (t.port h.losing).outbox = (s.port h.losing).outbox)))

/-- A handover in DRAIN whose losing port's tracker holds no counted entry of the extent commits: the new mapping, the
generation one further, the record ACTIVE, DONE or FORCED_DONE with the confirmation posted, and the notices of Table 42
with COMPLETION_POSTED to an OPEN holder; while an entry is left it does not commit. The rights that a notice carries are
READ of a downgrade, READ_WRITE of an upgrade and those of a new mapping. -/
def Obligations.HandoverCommits : Prop :=
  ∀ (s : State) (h : Handover) (b : ExtentBody) (cf : Confirmation), s.power = .running → s.active = some h →
    h.phase = .drain → h.confirmation = some cf → s.extent h.extent = .changing b h.change.id →
    h.change.op.extent? = some h.extent → h.change.op.recordPort = none →
    ((∀ e ∈ s.tracker h.losing, e.extent = h.extent → h.kind = .downgrade ∧ e.kind = .read) →
      ∃ t b' notices, exec .handoverCommit s = .next t ∧ t.extent h.extent = .active b' ∧ h.commits b b' ∧
        h.kind.tells h.losing h.extent h.change.id (b.generation + 1) notices ∧
        s.endedTelling t (extentRecord h.change h.extent
          (if h.forced then .forcedDone cf h.abortedCount else .doneHandover cf) (some (b.generation + 1))) notices ∧
        s.sameBeside t (some h.extent) ∧ t.copyEngine = s.copyEngine) ∧
    ((∃ e ∈ s.tracker h.losing, e.extent = h.extent ∧ (h.kind = .downgrade → e.kind = .write)) →
      exec .handoverCommit s = .next s) ∧
    (∀ (x : ExtentId) (id wb : Nat) (g : Generation) (r : Rights),
      (NoticeBody.pendingDowngrade x id g).rights? = some .read ∧ (NoticeBody.downgraded x id g).rights? = some .read ∧
      (NoticeBody.upgraded x id g).rights? = some .readWrite ∧ (NoticeBody.mapped x id g wb r).rights? = some r)

/-- A held PENDING notice is offered again on the report of room: it enters with the next sequence and the lost count,
of the handover's kind, extent, change and current generation (R127), and is recorded as sent; without room it stays held. That the offer is a command of its own is log 2. -/
def Obligations.PendingNoticeReoffered : Prop :=
  ∀ (s : State) (h : Handover), s.power = .running → s.active = some h → h.phase = .confirm →
    h.pendingNotice = .held → h.roomReported = true → (s.port h.losing).state = .opened →
    ((s.noticeQueue h.losing).notices.length < 8 →
      ∃ t n, exec .pendingNoticeReoffer s = .next t ∧
        t.active = some { h with pendingNotice := .sent (s.noticeQueue h.losing).next, roomReported := false } ∧
        t.noticeQueue h.losing = { notices := (s.noticeQueue h.losing).notices ++ [n],
                                   next := (s.noticeQueue h.losing).next + 1, lost := 0 } ∧
        n.sequence = (s.noticeQueue h.losing).next ∧ n.lostBefore = (s.noticeQueue h.losing).lost ∧
        n.body.pendingChange? = some h.change.id ∧
        (∀ b, s.extent h.extent = .changing b h.change.id →
          h.kind.warns h.extent h.change.id b.generation n.body) ∧
        (t.port h.losing).outbox = (s.port h.losing).outbox ++ [.notice n]) ∧
    (8 ≤ (s.noticeQueue h.losing).notices.length →
      exec .pendingNoticeReoffer s = .next { s with active := some { h with roomReported := false } })

/-- The ends of a relocation: the commit in FINISHING moves the extent to its target with the generation one further; the
end of an abandon leaves it at its source; each posts its end record, or holds that same record when no place is free; a
held record is posted when one is. COMPLETION_POSTED goes to an OPEN holder with the post, and no other notice. -/
def Obligations.RelocationEnds : Prop :=
  (∀ (s : State) (r : Relocation) (b : ExtentBody), s.power = .running → s.copyEngine = .running r →
    s.extent r.extent = .relocating b →
    (r.phase = .finishing →
      (∀ (p : PortId), ∀ e ∈ s.tracker p, e.extent = r.extent → ∃ d, e.resolution = .dest d) →
      ∃ t, exec .relocationCommit s = .next t ∧
        t.extent r.extent = .active { b with poolBase := r.targetBase, generation := b.generation + 1 } ∧
        (∀ rec : CompletionRecord, rec =
            { changeId := 0, kind := .relocationEnd, extent := some r.extent, port := none, submitter := none,
              outcome := .relocationDone r.poisonedLines r.destFault, generationAfter := some (b.generation + 1) } →
          (s.placeFree = true → t.copyEngine = .idle ∧ t.completions = s.completions ++ [rec] ∧
            s.sendsNotices t [] (some rec)) ∧
          (s.placeFree = false → t.copyEngine = .ending rec ∧ t.completions = s.completions ∧
            s.sendsNotices t [] none)) ∧
        s.sameBeside t (some r.extent) ∧ t.changeQueue = s.changeQueue ∧ t.active = s.active) ∧
    (∀ reason, r.phase = .abandoning reason → r.pairs = [] →
      (∀ (p : PortId), ∀ e ∈ s.tracker p, e.extent = r.extent → ∃ d, e.resolution = .source d) →
      ∃ t, exec .abandonEnd s = .next t ∧ t.extent r.extent = .active b ∧
        (∀ rec : CompletionRecord, rec =
            { changeId := 0, kind := .relocationEnd, extent := some r.extent, port := none, submitter := none,
              outcome := .relocationAbandoned reason, generationAfter := some b.generation } →
          (s.placeFree = true → t.copyEngine = .idle ∧ t.completions = s.completions ++ [rec] ∧
            s.sendsNotices t [] (some rec)) ∧
          (s.placeFree = false → t.copyEngine = .ending rec ∧ t.completions = s.completions ∧
            s.sendsNotices t [] none)) ∧
        s.sameBeside t (some r.extent) ∧ t.changeQueue = s.changeQueue ∧ t.active = s.active)) ∧
  (∀ (s : State) (rec : CompletionRecord), s.power = .running → s.copyEngine = .ending rec →
    (s.placeFree = true → ∃ t, exec .endRecordPost s = .next t ∧ t.copyEngine = .idle ∧
      t.completions = s.completions ++ [rec] ∧ s.sendsNotices t [] (some rec) ∧ s.sameBeside t none ∧
      t.changeQueue = s.changeQueue) ∧
    (s.placeFree = false → exec .endRecordPost s = .next s))

/-! ## Requests -/

/-- Every read request with operands in range is answered OK with the report of the state as it was taken (laid out as logs
22 and 43 say where R199 leaves it open), in READ_PORT with the path's own slot already busy (the model's choice, log 26). None changes anything but the path's response and the
model's own count of free values (log 35), except READ_PORT with the clear option, which clears the port's counters and
error record. PEEK_COMPLETION answers NOT_FOUND on an empty queue. ALERT_N is
asserted while a completion record is held, a first error record is full or the interrupted-operation record is present, and
READ_STATUS's alert byte shows the three causes in bits 0 to 2. While the bridge runs, a read transaction at the I2C
target's address gives the marker, in READY the response and its check byte (log 20), and FFh past the end. -/
def Obligations.ReadRequestsAnswer : Prop :=
  (∀ (s : State) (address : BitVec 7), s.power = .running → address.toNat = 0x58 + s.straps.addr.toNat →
    (s.i2c = .empty → s.i2cRead address 0 = some 0x00 ∧ ∀ i : Nat, 1 ≤ i → s.i2cRead address i = some 0xFF) ∧
    (∀ kind, s.i2c = .inProgress kind →
      s.i2cRead address 0 = some 0x01 ∧ ∀ i : Nat, 1 ≤ i → s.i2cRead address i = some 0xFF) ∧
    (∀ r, s.i2c = .ready r → s.i2cRead address 0 = some 0x02 ∧ s.i2cRead address 1 = some r.kind ∧
      s.i2cRead address 2 = some r.status.code ∧ s.i2cRead address 3 = some r.status.reasonCode ∧
      s.i2cRead address 4 = some (BitVec.ofNat 8 r.data.length) ∧
      (∀ (i : Nat) (b : Byte), r.data[i]? = some b → s.i2cRead address (5 + i) = some b) ∧
      s.i2cRead address (5 + r.data.length) = some (crc8 r.encode) ∧
      ∀ i : Nat, 6 + r.data.length ≤ i → s.i2cRead address i = some 0xFF)) ∧
  (∀ s : State,
    (s.alertAsserted = true ↔
      s.completions ≠ [] ∨ (∃ c : ChannelId, (s.channel c).firstError ≠ none) ∨ s.interrupted ≠ none) ∧
    (s.alertByte.getLsbD 0 = true ↔ s.completions ≠ []) ∧
    (s.alertByte.getLsbD 1 = true ↔ ∃ c : ChannelId, (s.channel c).firstError ≠ none) ∧
    (s.alertByte.getLsbD 2 = true ↔ s.interrupted ≠ none) ∧
    ∀ i : Nat, 3 ≤ i → s.alertByte.getLsbD i = false) ∧
  ∀ (s : State) (path : MgmtPath), s.receives path →
    exec (.readLayout path) s =
      .next (({ s with fresh := s.fresh + 1 } : State).answered path 0x12 .ok s.layout.report) ∧
    exec (.readErrors path) s =
      .next (({ s with fresh := s.fresh + 1 } : State).answered path 0x15 .ok s.reportErrors) ∧
    exec (.readStatus path) s =
      .next (({ s with fresh := s.fresh + 1 } : State).answered path 0x10 .ok s.reportStatus) ∧
    (∀ b x, extentOperand b = some x → exec (.readExtent path b) s =
      .next (({ s with fresh := s.fresh + 1 } : State).answered path 0x11 .ok (s.reportExtent x))) ∧
    (∀ b c, channelOperand b = some c → exec (.readChannel path b) s =
      .next (({ s with fresh := s.fresh + 1 } : State).answered path 0x14 .ok (s.reportChannel c))) ∧
    (∀ b p, portOperand b = some p → exec (.readPort path b 0) s =
      .next (({ s with fresh := s.fresh + 1 } : State).answered path 0x13 .ok
        ((s.takeRequest path 0x13).reportPort p))) ∧
    (∀ b p, portOperand b = some p → s.holder = pathHolder path → exec (.readPort path b 1) s =
      .next (({ s.setPort p { s.port p with crcDrops := 0, protocolErrors := 0, orphanData := 0, error := none } with
        fresh := s.fresh + 1 } : State).answered path 0x13 .ok ((s.takeRequest path 0x13).reportPort p))) ∧
    (∀ r rest, s.completions = r :: rest → exec (.peekCompletion path) s =
      .next (s.answered path 0x16 .ok (r.encode ++ [BitVec.ofNat 8 (rest.length + 1)]))) ∧
    (s.completions = [] → exec (.peekCompletion path) s = .next (s.answered path 0x16 .notFound []))

/-- Every request that is taken and fails check 1 or 2 of Table 60 is answered BAD_REQUEST, and every holder request of a
path that does not hold the role NOT_HOLDER; either changes nothing else. Every in-band request to a busy slot is answered
BUSY without the slot (with the kind FFh where its body is too short for one, log 39), and a request frame on the I2C path
while it is IN_PROGRESS has no effect (log 9). No request has one while the bridge does not
run (off: log 5) or the port receives no packet. -/
def Obligations.RequestsTurnedAway : Prop :=
  ∀ (c : Instr) (s : State) (path : MgmtPath) (kind : Byte), requestOf c = some (path, kind) →
    (s.receives path → badRequest c = true → exec c s = .next (s.answered path kind .badRequest [])) ∧
    (s.receives path → badRequest c = false → holderRequest c = true → s.holder ≠ pathHolder path →
      exec c s = .next (s.answered path kind .notHolder [])) ∧
    (∀ p k, path = .inBand p → s.hears p → s.slot p = some k →
      exec c s = .next (s.send p (.mgmtResponse { kind := kind, status := .busy, data := [] }))) ∧
    (∀ k, path = .i2c → s.i2c = .inProgress k → exec c s = .next s) ∧
    (s.power ≠ .running → exec c s = .next s) ∧
    (∀ p, path = .inBand p → ¬ s.hears p → exec c s = .next s)

/-- The holder's SUBMIT of a good change to a queue with room is appended with the counter's id; POP removes and returns
the oldest record; CANCEL of the active handover rolls it back, RESTORED to the losing port when a PENDING notice was sent, and of a queued
change, also behind an active handover, takes it off the queue; NOT_FOUND answers an id that is neither. Each posts its record, with COMPLETION_POSTED to an OPEN holder (before the answer to an
in-band CANCEL: the model's choice, log 15). -/
def Obligations.QueueRequests : Prop :=
  ∀ (s : State) (path : MgmtPath), s.manages path →
    (∀ o op, o.change? = some op → s.changeQueue.length < 8 →
      exec (.submit path o) s = .next (({ s with
        changeQueue := s.changeQueue ++ [{ id := s.nextChangeId, submitter := path, op := op }]
        nextChangeId := if s.nextChangeId = 65535 then 1 else s.nextChangeId + 1 } : State).answered path 0x20 .ok
          (le 2 s.nextChangeId))) ∧
    (∀ o op, o.change? = some op → 8 ≤ s.changeQueue.length →
      exec (.submit path o) s = .next (s.answered path 0x20 .queueFull [])) ∧
    (∀ o, o.change? = none → exec (.submit path o) s = .next (s.answered path 0x20 .badRequest [])) ∧
    (∀ r rest, s.completions = r :: rest →
      exec (.popCompletion path) s = .next (({ s with completions := rest } : State).answered path 0x22 .ok
        (r.encode ++ [BitVec.ofNat 8 rest.length]))) ∧
    (s.completions = [] → exec (.popCompletion path) s = .next (s.answered path 0x22 .notFound [])) ∧
    (∀ (id : BitVec 16) h b, s.active = some h → h.change.id = id.toNat →
      s.extent h.extent = .changing b h.change.id → h.change.op.extent? = some h.extent →
      h.change.op.recordPort = none →
      ∃ (t : State) (notices : List (PortId × NoticeBody)),
        exec (.cancel path id) s = .next (t.answered path 0x21 .ok []) ∧ t.extent h.extent = .active b ∧
        h.restores b.generation notices ∧
        s.endedTelling t (extentRecord h.change h.extent (.cancelled (if h.phase = .confirm then .confirm else .drain))
          (some b.generation)) notices ∧ s.sameBeside t (some h.extent) ∧ t.copyEngine = s.copyEngine) ∧
    (∀ (id : BitVec 16) started queued, s.changeQueue = started ++ queued →
      (s.active = none ∧ started = []) ∨ (∃ h, s.active = some h ∧ h.change.id ≠ id.toNat ∧ started.length = 1) →
      (∀ q1 ch q2, queued = q1 ++ ch :: q2 → ch.id = id.toNat → (∀ x ∈ q1, x.id ≠ id.toNat) →
        (s.placeFree = true → ∃ t : State, exec (.cancel path id) s = .next (t.answered path 0x21 .ok []) ∧
          t.changeQueue = started ++ (q1 ++ q2) ∧ t.active = s.active ∧ s.sameBeside t none ∧
          t.copyEngine = s.copyEngine ∧
          ∀ rec : CompletionRecord, rec =
              { changeId := ch.id, kind := ch.op.recordKind, extent := ch.op.extent?, port := ch.op.recordPort,
                submitter := some ch.submitter, outcome := .cancelled .queued,
                generationAfter := ch.op.extent?.bind s.generationOf } →
            t.completions = s.completions ++ [rec] ∧ s.sendsNotices t [] (some rec)) ∧
        (s.placeFree = false → exec (.cancel path id) s = .next (s.answered path 0x21 .queueFull []))) ∧
      ((∀ ch ∈ queued, ch.id ≠ id.toNat) →
        exec (.cancel path id) s = .next (s.answered path 0x21 .notFound [])))

/-- The holder's ABORT_RELOCATION abandons in COPYING and is TOO_LATE in FINISHING; CLEAR_ERRORS empties the records of
the channels named; CLEAR_INTERRUPTED clears its record. -/
def Obligations.RelocationAbortedAndErrorsCleared : Prop :=
  ∀ (s : State) (path : MgmtPath), s.manages path →
    (∀ b x r, extentOperand b = some x → s.copyEngine = .running r → r.extent = x →
      (r.phase = .copying → exec (.abortRelocation path b) s =
        .next (({ s with copyEngine := .running { r with phase := .abandoning .requested } } : State).answered path 0x23 .ok [])) ∧
      (r.phase = .finishing → exec (.abortRelocation path b) s = .next (s.answered path 0x23 .tooLate []))) ∧
    (∀ b x, extentOperand b = some x → s.copyEngine = .idle →
      exec (.abortRelocation path b) s = .next (s.answered path 0x23 .notFound [])) ∧
    exec (.clearErrors path 0) s = .next ((s.setChannel 0
      { s.channel 0 with firstError := none, furtherErrors := 0, correctable := 0 }).answered path 0x24 .ok []) ∧
    exec (.clearErrors path 1) s = .next ((s.setChannel 1
      { s.channel 1 with firstError := none, furtherErrors := 0, correctable := 0 }).answered path 0x24 .ok []) ∧
    exec (.clearErrors path 2) s = .next (((s.setChannel 0
      { s.channel 0 with firstError := none, furtherErrors := 0, correctable := 0 }).setChannel 1
      { s.channel 1 with firstError := none, furtherErrors := 0, correctable := 0 }).answered path 0x24 .ok []) ∧
    exec (.clearInterrupted path) s = .next (({ s with interrupted := none } : State).answered path 0x25 .ok [])

/-- The holder, then SET_LAYOUT's three checks in order, and the range appended or replaced with every start absent (R26);
CLEAR_LAYOUT empties the list while the pool is OFFLINE (R27). Nothing but the list changes. -/
def Obligations.LayoutEdited : Prop :=
  ∀ (s : State) (path : MgmtPath) (i : Byte) (limit : BitVec 16) (mode : Byte), s.receives path →
    (s.holder ≠ pathHolder path →
      exec (.setLayout path i limit mode) s = .next (s.answered path 0x26 .notHolder []) ∧
      exec (.clearLayout path) s = .next (s.answered path 0x27 .notHolder [])) ∧
    (s.holder = pathHolder path → s.layout.pool ≠ .offline →
      exec (.setLayout path i limit mode) s = .next (s.answered path 0x26 .wrongState []) ∧
      exec (.clearLayout path) s = .next (s.answered path 0x27 .wrongState [])) ∧
    (s.holder = pathHolder path → s.layout.pool = .offline →
      exec (.clearLayout path) s =
        .next (({ s with layout := { s.layout with ranges := [] } } : State).answered path 0x27 .ok []) ∧
      (s.layout.ranges.length < i.toNat ∨ 7 < i.toNat →
        exec (.setLayout path i limit mode) s = .next (s.answered path 0x26 .badRequest [])) ∧
      (i.toNat ≤ s.layout.ranges.length → i.toNat ≤ 7 →
        limit.toNat = 0 ∨ 1024 < limit.toNat ∨ 2 < mode.toNat →
        exec (.setLayout path i limit mode) s = .next (s.answered path 0x26 .badRequest [])) ∧
      (∀ m, i.toNat ≤ s.layout.ranges.length → i.toNat ≤ 7 → 1 ≤ limit.toNat → limit.toNat ≤ 1024 →
        (mode = 0 ∧ m = .ch0) ∨ (mode = 1 ∧ m = .ch1) ∨ (mode = 2 ∧ m = .both) →
        ∃ t : State, exec (.setLayout path i limit mode) s = .next (t.answered path 0x26 .ok []) ∧
          t = { s with layout := { s.layout with ranges := t.layout.ranges } } ∧
          (∀ r ∈ t.layout.ranges, r.ch0Start = none ∧ r.ch1Start = none) ∧
          t.layout.ranges.map (fun r => (r.limit, r.mode)) =
            if i.toNat = s.layout.ranges.length then
              s.layout.ranges.map (fun r => (r.limit, r.mode)) ++ [(limit.toNat, m)]
            else (s.layout.ranges.map (fun r => (r.limit, r.mode))).set i.toNat (limit.toNat, m)))

/-- POOL_COMMIT makes its six checks of Table 13 in their order, each refusal with its detail; a list that passes makes the
pool ONLINE with the last limit as its size, and the starts and the consumption of each channel the running totals of R28.
POOL_TEARDOWN makes it OFFLINE again when every extent is FREE, and is refused when one is not. Of the layout the Decoder answers its queries: the channels of a pool segment (R34), use and
consumption of a channel, none while OFFLINE (R34), and the pool segment of a channel-local line (R35). -/
def Obligations.PoolCommitAndTeardown : Prop :=
  (∀ (s : State) (path : MgmtPath) (l : List LayoutRange), s.manages path → l = s.layout.ranges →
    (s.layout.pool ≠ .offline → exec (.poolCommit path) s = .next (s.answered path 0x28 .wrongState [])) ∧
    (s.layout.pool = .offline → l = [] →
      exec (.poolCommit path) s = .next (s.answered path 0x28 (.refused .noRanges) [])) ∧
    (∀ i r, s.layout.pool = .offline → limitsRise l i → l[i]? = some r → r.limit ≤ rangeLower l i →
      exec (.poolCommit path) s = .next (s.answered path 0x28 (.refused .limitOrder) [BitVec.ofNat 8 i])) ∧
    (∀ i r, s.layout.pool = .offline → limitsRise l l.length → bothEven l i → l[i]? = some r → r.mode = .both →
      (r.limit - rangeLower l i) % 2 = 1 →
      exec (.poolCommit path) s = .next (s.answered path 0x28 (.refused .oddLength) [BitVec.ofNat 8 i])) ∧
    (s.layout.pool = .offline → l ≠ [] → limitsRise l l.length → bothEven l l.length →
      (¬ s.namedOnline 0 →
        exec (.poolCommit path) s = .next (s.answered path 0x28 (.refused .channelNotOnline) [0])) ∧
      (s.namedOnline 0 → ¬ s.namedOnline 1 →
        exec (.poolCommit path) s = .next (s.answered path 0x28 (.refused .channelNotOnline) [1])) ∧
      (s.namedOnline 0 → s.namedOnline 1 → ¬ s.fitsChannel 0 →
        exec (.poolCommit path) s = .next (s.answered path 0x28 (.refused .capacity) [0])) ∧
      (s.namedOnline 0 → s.namedOnline 1 → s.fitsChannel 0 → ¬ s.fitsChannel 1 →
        exec (.poolCommit path) s = .next (s.answered path 0x28 (.refused .capacity) [1])) ∧
      (s.namedOnline 0 → s.namedOnline 1 → s.fitsChannel 0 → s.fitsChannel 1 →
        ∃ (t : State) (data : List Byte), exec (.poolCommit path) s = .next (t.answered path 0x28 .ok data) ∧
        t = { s with layout := t.layout } ∧ t.layout.preserve = s.layout.preserve ∧
        (∀ r c0 c1, l.getLast? = some r → c0 = channelTotal l 0 l.length → c1 = channelTotal l 1 l.length →
          t.layout.pool = .online r.limit c0 c1 ∧ data = le 2 r.limit ++ le 2 c0 ++ le 2 c1) ∧
        t.layout.ranges.map (fun r => (r.limit, r.mode)) = l.map (fun r => (r.limit, r.mode)) ∧
        startsAreTotals t.layout.ranges)) ∧
    (s.layout.pool = .offline → exec (.poolTeardown path) s = .next (s.answered path 0x29 .wrongState [])) ∧
    (s.layout.pool ≠ .offline → (∃ x : ExtentId, s.extent x ≠ .free) →
      exec (.poolTeardown path) s = .next (s.answered path 0x29 (.refused .extentsInUse) [])) ∧
    (s.layout.pool ≠ .offline → (∀ x : ExtentId, s.extent x = .free) → ∃ t : State,
      exec (.poolTeardown path) s = .next (t.answered path 0x29 .ok []) ∧
      t = { s with layout := t.layout } ∧ t.layout.pool = .offline ∧ t.layout.preserve = s.layout.preserve ∧
      t.layout.ranges.map (fun r => (r.limit, r.mode)) = s.layout.ranges.map (fun r => (r.limit, r.mode)) ∧
      (∀ r ∈ t.layout.ranges, r.ch0Start = none ∧ r.ch1Start = none))) ∧
  (∀ (l : Layout) (c : ChannelId), limitsRise l.ranges l.ranges.length →
    (∀ i r seg, holdsSegment l.ranges i r seg →
      (l.segmentOn seg c = true ↔ r.mode = .both ∨ (r.mode = .ch0 ∧ c = 0) ∨ (r.mode = .ch1 ∧ c = 1))) ∧
    (l.uses c = true ↔ l.pool ≠ .offline ∧ 0 < l.consumption c) ∧
    (l.pool = .offline → l.consumption c = 0 ∧ ∀ line, l.segmentOfLine c line = none) ∧
    (∀ size c0 c1, l.pool = .online size c0 c1 → l.consumption 0 = c0 ∧ l.consumption 1 = c1) ∧
    (∀ line g, l.pool ≠ .offline → startsAreTotals l.ranges → g = line / 4194304 →
      (∀ i r start, coversLocal l.ranges c i r start g →
        (r.mode ≠ .both → l.segmentOfLine c line = some (rangeLower l.ranges i + (g - start))) ∧
        (∀ k block, r.mode = .both → k = line - start * 4194304 → block = 2 * (k / 8) + (if c = 0 then 0 else 1) →
          l.segmentOfLine c line =
            some (rangeLower l.ranges i + (block * 512 + k % 8 * 64) / 268435456))) ∧
      ((∀ i r start, ¬ coversLocal l.ranges c i r start g) → l.segmentOfLine c line = none)))

/-- CHANNEL_ONLINE starts detection in OFFLINE and FAULTED with its response held; CHANNEL_OFFLINE takes an unused ONLINE,
filling or FAULTED channel OFFLINE and keeps its error record, and is refused for a used one. -/
def Obligations.ChannelRequests : Prop :=
  ∀ (s : State) (path : MgmtPath) (b : Byte) (c : ChannelId), s.manages path → channelOperand b = some c →
    ((s.channel c).state = .offline → exec (.channelOnline path b) s =
      .next ((s.takeRequest path 0x2A).setChannel c { s.channel c with state := .detecting false (some path) })) ∧
    ((s.channel c).state = .faulted → exec (.channelOnline path b) s =
      .next ((s.takeRequest path 0x2A).setChannel c { s.channel c with state := .detecting true (some path) })) ∧
    ((s.channel c).state = .online ∨ (s.channel c).state = .filling →
      exec (.channelOnline path b) s = .next (s.answered path 0x2A .wrongState [])) ∧
    ((s.channel c).state = .offline →
      exec (.channelOffline path b) s = .next (s.answered path 0x2B .wrongState [])) ∧
    ((s.channel c).state ≠ .offline → 0 < s.layout.consumption c →
      exec (.channelOffline path b) s = .next (s.answered path 0x2B (.refused .channelInUse) [])) ∧
    (∀ ff req, (s.channel c).state = .detecting ff req → s.layout.consumption c = 0 →
      exec (.channelOffline path b) s = .next (s.answered path 0x2B .wrongState [])) ∧
    ((s.channel c).state = .online ∨ (s.channel c).state = .filling ∨ (s.channel c).state = .faulted →
      s.layout.consumption c = 0 → ∃ t : State, exec (.channelOffline path b) s = .next (t.answered path 0x2B .ok []) ∧
        t.channel c = { s.channel c with state := .offline, slots := Vector.replicate 4 none, queue := [],
                                         memory := Memory.undefinedContents } ∧
        t = { s with ports := t.ports, trackers := t.trackers, channels := t.channels, copyEngine := t.copyEngine,
                     fresh := t.fresh } ∧
        (∀ p : PortId, (t.port p).quiet = (s.port p).quiet))

/-- PORT_ENABLE takes DISABLED to DOWN and is WRONG_STATE elsewhere; PORT_DISABLE and PORT_RESET reset a port that is not
DISABLED, with its counters cleared, its window and offers kept, and only clear the counters of a DISABLED one. -/
def Obligations.PortRequests : Prop :=
  ∀ (s : State) (path : MgmtPath) (b : Byte) (p : PortId), s.manages path → portOperand b = some p →
    ((s.port p).state = .disabled → exec (.portEnable path b) s =
      .next ((s.setPort p { s.port p with state := .down }).answered path 0x2C .ok [])) ∧
    ((s.port p).state ≠ .disabled → exec (.portEnable path b) s = .next (s.answered path 0x2C .wrongState [])) ∧
    ((s.port p).state = .disabled →
      exec (.portReset path b) s = .next ((s.setPort p { s.port p with
        crcDrops := 0, protocolErrors := 0, orphanData := 0, error := none }).answered path 0x2E .ok []) ∧
      exec (.portDisable path b) s = .next ((s.setPort p { s.port p with
        crcDrops := 0, protocolErrors := 0, orphanData := 0, error := none }).answered path 0x2D .ok [])) ∧
    (∀ (c : Instr) (target : PortState), (s.port p).state ≠ .disabled →
      (c = .portReset path b ∧ target = .down) ∨ (c = .portDisable path b ∧ target = .disabled) →
      ∃ t, exec c s = .next t ∧
        t.port p = { s.port p with state := target, bringUpTimer := none, acceptance := none, grantedReads := 0,
                                   grantedWrites := 0, crcDrops := 0, protocolErrors := 0, orphanData := 0,
                                   error := none, outbox := [] } ∧
        t.tracker p = ((s.tracker p).filter (fun e => !e.waiting)).map (fun e => { e with state := .retiring }) ∧
        t.noticeQueue p = { notices := [], next := 0, lost := 0 } ∧ t.slot p = none ∧ t.holder ≠ .port p ∧
        t.layout = s.layout ∧ t.copyEngine = s.copyEngine)

/-- SET_OFFER writes both offers within range and not below the credits of the current open; SET_TIMERS writes every
nonzero limit within range, 0 keeping a limit; SET_PRESERVE writes the flag. -/
def Obligations.OffersAndLimits : Prop :=
  ∀ (s : State) (path : MgmtPath), s.manages path →
    (∀ b p (r w : Byte), portOperand b = some p →
      (r.toNat = 0 ∨ 24 < r.toNat ∨ w.toNat = 0 ∨ 16 < w.toNat →
        exec (.setOffer path b r w) s = .next (s.answered path 0x2F .badRequest [])) ∧
      (1 ≤ r.toNat → r.toNat ≤ 24 → 1 ≤ w.toNat → w.toNat ≤ 16 →
        ((s.port p).state = .opened ∨ (s.port p).state = .closing →
          r.toNat < (s.port p).grantedReads ∨ w.toNat < (s.port p).grantedWrites →
          exec (.setOffer path b r w) s = .next (s.answered path 0x2F (.refused .belowGrant) [])) ∧
        (((s.port p).state ≠ .opened ∧ (s.port p).state ≠ .closing) ∨
            ((s.port p).grantedReads ≤ r.toNat ∧ (s.port p).grantedWrites ≤ w.toNat) →
          exec (.setOffer path b r w) s = .next ((s.setPort p { s.port p with
            readOffer := r.toNat, writeOffer := w.toNat }).answered path 0x2F .ok [])))) ∧
    (∀ (c d w : BitVec 16) (b : Byte),
      (60000 < c.toNat ∨ 10000 < d.toNat ∨ 250 < b.toNat ∨ 1000 < w.toNat →
        exec (.setTimers path c d b w) s = .next (s.answered path 0x30 .badRequest [])) ∧
      (c.toNat ≤ 60000 → d.toNat ≤ 10000 → b.toNat ≤ 250 → w.toNat ≤ 1000 →
        ∃ l : Limits, exec (.setTimers path c d b w) s = .next (({ s with limits := l } : State).answered path 0x30 .ok
            (le 2 l.confirm ++ le 2 l.drain ++ le 1 l.bringUp ++ le 2 l.writeData)) ∧
          l.confirm = (if c.toNat = 0 then s.limits.confirm else c.toNat) ∧
          l.drain = (if d.toNat = 0 then s.limits.drain else d.toNat) ∧
          l.bringUp = (if b.toNat = 0 then s.limits.bringUp else b.toNat) ∧
          l.writeData = (if w.toNat = 0 then s.limits.writeData else w.toNat))) ∧
    exec (.setPreserve path 1) s =
      .next (({ s with layout := { s.layout with preserve := true } } : State).answered path 0x31 .ok []) ∧
    exec (.setPreserve path 0) s =
      .next (({ s with layout := { s.layout with preserve := false } } : State).answered path 0x31 .ok [])

/-- The manager role: a free role is granted to I2C, and to an OPEN and eligible port; another's role is HELD; RELEASE
frees it; BREAK takes it for I2C (its data byte where no port is displaced is a free value, log 23); SET_ELIGIBLE writes
the set and frees the role of a port that leaves it. -/
def Obligations.ManagerRole : Prop :=
  (∀ s : State, s.receives .i2c →
    (s.holder = .none → exec (.claim .i2c) s = .next (({ s with holder := .i2c } : State).answered .i2c 0x38 .ok [])) ∧
    (s.holder = .i2c → exec (.claim .i2c) s = .next (s.answered .i2c 0x38 .ok [])) ∧
    (∀ p, s.holder = .port p → exec (.claim .i2c) s = .next (s.answered .i2c 0x38 .held [BitVec.ofNat 8 p.val])) ∧
    (s.holder = .none ∨ s.holder = .i2c → ∃ b : Byte, exec (.breakRole .i2c) s =
      .next (({ s with holder := .i2c, fresh := s.fresh + 1 } : State).answered .i2c 0x40 .ok [b])) ∧
    (∀ p, s.holder = .port p → exec (.breakRole .i2c) s =
      .next ((({ s with holder := .i2c } : State).offerNotice p .roleLost).answered .i2c 0x40 .ok [BitVec.ofNat 8 p.val])) ∧
    (∀ v : Byte, v.toNat ≤ 15 → s.holder = .none →
      exec (.setEligible .i2c v) s = .next (s.answered .i2c 0x41 .notHolder [])) ∧
    (∀ v : Byte, v.toNat ≤ 15 → s.holder ≠ .none → ∃ holder, exec (.setEligible .i2c v) s =
        .next (({ s with eligible := v.truncate 4, holder := holder } : State).answered .i2c 0x41 .ok []) ∧
      (s.holder = .i2c → holder = .i2c) ∧
      (∀ p, s.holder = .port p → holder = if v.getLsbD p.val then .port p else .none))) ∧
  (∀ (s : State) (p : PortId), s.receives (.inBand p) →
    ((s.port p).state ≠ .opened → exec (.claim (.inBand p)) s = .next (s.answered (.inBand p) 0x38 .wrongState [])) ∧
    ((s.port p).state = .opened → s.eligible.getLsbD p.val = false →
      exec (.claim (.inBand p)) s = .next (s.answered (.inBand p) 0x38 .notEligible [])) ∧
    ((s.port p).state = .opened → s.eligible.getLsbD p.val = true →
      (s.holder = .none → exec (.claim (.inBand p)) s =
        .next (({ s with holder := .port p } : State).answered (.inBand p) 0x38 .ok [])) ∧
      (s.holder = .port p → exec (.claim (.inBand p)) s = .next (s.answered (.inBand p) 0x38 .ok [])) ∧
      (s.holder = .i2c → exec (.claim (.inBand p)) s = .next (s.answered (.inBand p) 0x38 .held [4])) ∧
      (∀ q, s.holder = .port q → q ≠ p → exec (.claim (.inBand p)) s =
        .next (s.answered (.inBand p) 0x38 .held [BitVec.ofNat 8 q.val])))) ∧
  (∀ (s : State) (path : MgmtPath), s.manages path →
    exec (.release path) s = .next (({ s with holder := .none } : State).answered path 0x39 .ok []))

/-! ## Laws that every step keeps -/

/-- Every law holds in the state after reset. -/
def Obligations.LawsHoldAtReset : Prop :=
  State.reset.memoryLaw ∧ State.reset.roleLaw ∧ State.reset.queueLaw ∧ State.reset.creditLaw ∧ State.reset.tagLaw ∧
  State.reset.shareLaw ∧ State.reset.windowLaw ∧ State.reset.sequenceLaw ∧ State.reset.placeLaw ∧ State.reset.copyLaw ∧
  State.reset.extentLaw ∧ State.reset.placementLaw

/-- Every step keeps the contents of both channels in the canonical form in which the model writes them down (cells
strictly rising and none equal to the background). The form is the model's own choice (log 40), no rule of the manual. -/
def Obligations.StepKeepsMemoryLaw : Prop := ∀ s t : State, s.memoryLaw → step s = .next t → t.memoryLaw

/-- Every step keeps the role with an OPEN port, I2C or nobody (R178). -/
def Obligations.StepKeepsRoleLaw : Prop := ∀ s t : State, s.roleLaw → step s = .next t → t.roleLaw

/-- Every step keeps the queues within their sizes, and the sequences of every notice queue consecutive (R114, R140,
R165). -/
def Obligations.StepKeepsQueueLaws : Prop :=
  ∀ s t : State, step s = .next t → (s.queueLaw → t.queueLaw) ∧ (s.sequenceLaw → t.sequenceLaw)

/-- Every step keeps the credits within the offers and the counted entries within the credits, and the tags of counted
entries distinct (R62, R63). -/
def Obligations.StepKeepsCreditAndTagLaws : Prop :=
  ∀ s t : State, step s = .next t → (s.creditLaw → t.creditLaw) ∧ (s.tagLaw → t.tagLaw)

/-- Every step keeps the share law of every extent (R8), and the windows: at every port the mappings apart and inside the
window, those that the active handover will leave at its commit too (R6). -/
def Obligations.StepKeepsShareAndWindowLaws : Prop :=
  ∀ s t : State, step s = .next t → (s.shareLaw → t.shareLaw) ∧ (s.windowLaw → t.windowLaw)

/-- Every step keeps the work queues within their places, and at most 8 pairs in flight, with distinct numbers and the
cursor within the length (R95, R96, R148, R150). -/
def Obligations.StepKeepsPlaceAndCopyLaws : Prop :=
  ∀ s t : State, step s = .next t → (s.placeLaw → t.placeLaw) ∧ (s.copyLaw → t.copyLaw)

/-- Every step keeps the CHANGING and the RELOCATING extent with the handover and the relocation they belong to (R3,
R10). -/
def Obligations.StepKeepsExtentLaw : Prop := ∀ s t : State, s.extentLaw → step s = .next t → t.extentLaw

/-- Every step keeps the pool ranges of extents and of the relocation's target apart and inside the pool (R4). -/
def Obligations.StepKeepsPlacementLaw : Prop := ∀ s t : State, s.placementLaw → step s = .next t → t.placementLaw
end

