-- ==== Sys2Proof/Laws/State.lean ====
section
/-! SUPPORT. Every field and every block after each update of one block: one lemma a field, so that no proof unfolds a
record update. -/

namespace Sys2Proof.Machine

/-! ## setPort -/

section

variable (s : State) (i : PortId) (x : LinkPort)

@[simp] theorem State.setPort_power : (s.setPort i x).power = s.power := rfl
@[simp] theorem State.setPort_resetNLow : (s.setPort i x).resetNLow = s.resetNLow := rfl
@[simp] theorem State.setPort_straps : (s.setPort i x).straps = s.straps := rfl
@[simp] theorem State.setPort_trackers : (s.setPort i x).trackers = s.trackers := rfl
@[simp] theorem State.setPort_noticeQueues : (s.setPort i x).noticeQueues = s.noticeQueues := rfl
@[simp] theorem State.setPort_extents : (s.setPort i x).extents = s.extents := rfl
@[simp] theorem State.setPort_layout : (s.setPort i x).layout = s.layout := rfl
@[simp] theorem State.setPort_channels : (s.setPort i x).channels = s.channels := rfl
@[simp] theorem State.setPort_changeQueue : (s.setPort i x).changeQueue = s.changeQueue := rfl
@[simp] theorem State.setPort_nextChangeId : (s.setPort i x).nextChangeId = s.nextChangeId := rfl
@[simp] theorem State.setPort_active : (s.setPort i x).active = s.active := rfl
@[simp] theorem State.setPort_completions : (s.setPort i x).completions = s.completions := rfl
@[simp] theorem State.setPort_interrupted : (s.setPort i x).interrupted = s.interrupted := rfl
@[simp] theorem State.setPort_copyEngine : (s.setPort i x).copyEngine = s.copyEngine := rfl
@[simp] theorem State.setPort_limits : (s.setPort i x).limits = s.limits := rfl
@[simp] theorem State.setPort_holder : (s.setPort i x).holder = s.holder := rfl
@[simp] theorem State.setPort_eligible : (s.setPort i x).eligible = s.eligible := rfl
@[simp] theorem State.setPort_i2c : (s.setPort i x).i2c = s.i2c := rfl
@[simp] theorem State.setPort_slots : (s.setPort i x).slots = s.slots := rfl
@[simp] theorem State.setPort_lastReset : (s.setPort i x).lastReset = s.lastReset := rfl
@[simp] theorem State.setPort_fresh : (s.setPort i x).fresh = s.fresh := rfl
@[simp] theorem State.setPort_pending : (s.setPort i x).pending = s.pending := rfl

@[simp] theorem State.setPort_tracker (j : PortId) : (s.setPort i x).tracker j = s.tracker j := rfl
@[simp] theorem State.setPort_noticeQueue (j : PortId) : (s.setPort i x).noticeQueue j = s.noticeQueue j := rfl
@[simp] theorem State.setPort_extent (j : ExtentId) : (s.setPort i x).extent j = s.extent j := rfl
@[simp] theorem State.setPort_channel (j : ChannelId) : (s.setPort i x).channel j = s.channel j := rfl
@[simp] theorem State.setPort_slot (j : PortId) : (s.setPort i x).slot j = s.slot j := rfl
@[simp] theorem State.setPort_port (j : PortId) : (s.setPort i x).port j = if j = i then x else s.port j := by
  simp only [State.setPort, State.port, Fin.getElem_fin, Vector.getElem_set]
  split <;> split <;> simp_all [Fin.ext_iff]
@[simp] theorem State.setPort_port_self : (s.setPort i x).port i = x := by simp
theorem State.setPort_port_ne (j : PortId) (h : j ≠ i) : (s.setPort i x).port j = s.port j := by simp [h]

end

/-! ## setTracker -/

section

variable (s : State) (i : PortId) (x : List Entry)

@[simp] theorem State.setTracker_power : (s.setTracker i x).power = s.power := rfl
@[simp] theorem State.setTracker_resetNLow : (s.setTracker i x).resetNLow = s.resetNLow := rfl
@[simp] theorem State.setTracker_straps : (s.setTracker i x).straps = s.straps := rfl
@[simp] theorem State.setTracker_ports : (s.setTracker i x).ports = s.ports := rfl
@[simp] theorem State.setTracker_noticeQueues : (s.setTracker i x).noticeQueues = s.noticeQueues := rfl
@[simp] theorem State.setTracker_extents : (s.setTracker i x).extents = s.extents := rfl
@[simp] theorem State.setTracker_layout : (s.setTracker i x).layout = s.layout := rfl
@[simp] theorem State.setTracker_channels : (s.setTracker i x).channels = s.channels := rfl
@[simp] theorem State.setTracker_changeQueue : (s.setTracker i x).changeQueue = s.changeQueue := rfl
@[simp] theorem State.setTracker_nextChangeId : (s.setTracker i x).nextChangeId = s.nextChangeId := rfl
@[simp] theorem State.setTracker_active : (s.setTracker i x).active = s.active := rfl
@[simp] theorem State.setTracker_completions : (s.setTracker i x).completions = s.completions := rfl
@[simp] theorem State.setTracker_interrupted : (s.setTracker i x).interrupted = s.interrupted := rfl
@[simp] theorem State.setTracker_copyEngine : (s.setTracker i x).copyEngine = s.copyEngine := rfl
@[simp] theorem State.setTracker_limits : (s.setTracker i x).limits = s.limits := rfl
@[simp] theorem State.setTracker_holder : (s.setTracker i x).holder = s.holder := rfl
@[simp] theorem State.setTracker_eligible : (s.setTracker i x).eligible = s.eligible := rfl
@[simp] theorem State.setTracker_i2c : (s.setTracker i x).i2c = s.i2c := rfl
@[simp] theorem State.setTracker_slots : (s.setTracker i x).slots = s.slots := rfl
@[simp] theorem State.setTracker_lastReset : (s.setTracker i x).lastReset = s.lastReset := rfl
@[simp] theorem State.setTracker_fresh : (s.setTracker i x).fresh = s.fresh := rfl
@[simp] theorem State.setTracker_pending : (s.setTracker i x).pending = s.pending := rfl

@[simp] theorem State.setTracker_port (j : PortId) : (s.setTracker i x).port j = s.port j := rfl
@[simp] theorem State.setTracker_noticeQueue (j : PortId) : (s.setTracker i x).noticeQueue j = s.noticeQueue j := rfl
@[simp] theorem State.setTracker_extent (j : ExtentId) : (s.setTracker i x).extent j = s.extent j := rfl
@[simp] theorem State.setTracker_channel (j : ChannelId) : (s.setTracker i x).channel j = s.channel j := rfl
@[simp] theorem State.setTracker_slot (j : PortId) : (s.setTracker i x).slot j = s.slot j := rfl
@[simp] theorem State.setTracker_tracker (j : PortId) : (s.setTracker i x).tracker j = if j = i then x else s.tracker j := by
  simp only [State.setTracker, State.tracker, Fin.getElem_fin, Vector.getElem_set]
  split <;> split <;> simp_all [Fin.ext_iff]
@[simp] theorem State.setTracker_tracker_self : (s.setTracker i x).tracker i = x := by simp
theorem State.setTracker_tracker_ne (j : PortId) (h : j ≠ i) : (s.setTracker i x).tracker j = s.tracker j := by simp [h]

end

/-! ## setNoticeQueue -/

section

variable (s : State) (i : PortId) (x : NoticeQueue)

@[simp] theorem State.setNoticeQueue_power : (s.setNoticeQueue i x).power = s.power := rfl
@[simp] theorem State.setNoticeQueue_resetNLow : (s.setNoticeQueue i x).resetNLow = s.resetNLow := rfl
@[simp] theorem State.setNoticeQueue_straps : (s.setNoticeQueue i x).straps = s.straps := rfl
@[simp] theorem State.setNoticeQueue_ports : (s.setNoticeQueue i x).ports = s.ports := rfl
@[simp] theorem State.setNoticeQueue_trackers : (s.setNoticeQueue i x).trackers = s.trackers := rfl
@[simp] theorem State.setNoticeQueue_extents : (s.setNoticeQueue i x).extents = s.extents := rfl
@[simp] theorem State.setNoticeQueue_layout : (s.setNoticeQueue i x).layout = s.layout := rfl
@[simp] theorem State.setNoticeQueue_channels : (s.setNoticeQueue i x).channels = s.channels := rfl
@[simp] theorem State.setNoticeQueue_changeQueue : (s.setNoticeQueue i x).changeQueue = s.changeQueue := rfl
@[simp] theorem State.setNoticeQueue_nextChangeId : (s.setNoticeQueue i x).nextChangeId = s.nextChangeId := rfl
@[simp] theorem State.setNoticeQueue_active : (s.setNoticeQueue i x).active = s.active := rfl
@[simp] theorem State.setNoticeQueue_completions : (s.setNoticeQueue i x).completions = s.completions := rfl
@[simp] theorem State.setNoticeQueue_interrupted : (s.setNoticeQueue i x).interrupted = s.interrupted := rfl
@[simp] theorem State.setNoticeQueue_copyEngine : (s.setNoticeQueue i x).copyEngine = s.copyEngine := rfl
@[simp] theorem State.setNoticeQueue_limits : (s.setNoticeQueue i x).limits = s.limits := rfl
@[simp] theorem State.setNoticeQueue_holder : (s.setNoticeQueue i x).holder = s.holder := rfl
@[simp] theorem State.setNoticeQueue_eligible : (s.setNoticeQueue i x).eligible = s.eligible := rfl
@[simp] theorem State.setNoticeQueue_i2c : (s.setNoticeQueue i x).i2c = s.i2c := rfl
@[simp] theorem State.setNoticeQueue_slots : (s.setNoticeQueue i x).slots = s.slots := rfl
@[simp] theorem State.setNoticeQueue_lastReset : (s.setNoticeQueue i x).lastReset = s.lastReset := rfl
@[simp] theorem State.setNoticeQueue_fresh : (s.setNoticeQueue i x).fresh = s.fresh := rfl
@[simp] theorem State.setNoticeQueue_pending : (s.setNoticeQueue i x).pending = s.pending := rfl

@[simp] theorem State.setNoticeQueue_port (j : PortId) : (s.setNoticeQueue i x).port j = s.port j := rfl
@[simp] theorem State.setNoticeQueue_tracker (j : PortId) : (s.setNoticeQueue i x).tracker j = s.tracker j := rfl
@[simp] theorem State.setNoticeQueue_extent (j : ExtentId) : (s.setNoticeQueue i x).extent j = s.extent j := rfl
@[simp] theorem State.setNoticeQueue_channel (j : ChannelId) : (s.setNoticeQueue i x).channel j = s.channel j := rfl
@[simp] theorem State.setNoticeQueue_slot (j : PortId) : (s.setNoticeQueue i x).slot j = s.slot j := rfl
@[simp] theorem State.setNoticeQueue_noticeQueue (j : PortId) : (s.setNoticeQueue i x).noticeQueue j = if j = i then x else s.noticeQueue j := by
  simp only [State.setNoticeQueue, State.noticeQueue, Fin.getElem_fin, Vector.getElem_set]
  split <;> split <;> simp_all [Fin.ext_iff]
@[simp] theorem State.setNoticeQueue_noticeQueue_self : (s.setNoticeQueue i x).noticeQueue i = x := by simp
theorem State.setNoticeQueue_noticeQueue_ne (j : PortId) (h : j ≠ i) : (s.setNoticeQueue i x).noticeQueue j = s.noticeQueue j := by simp [h]

end

/-! ## setExtent -/

section

variable (s : State) (i : ExtentId) (x : Extent)

@[simp] theorem State.setExtent_power : (s.setExtent i x).power = s.power := rfl
@[simp] theorem State.setExtent_resetNLow : (s.setExtent i x).resetNLow = s.resetNLow := rfl
@[simp] theorem State.setExtent_straps : (s.setExtent i x).straps = s.straps := rfl
@[simp] theorem State.setExtent_ports : (s.setExtent i x).ports = s.ports := rfl
@[simp] theorem State.setExtent_trackers : (s.setExtent i x).trackers = s.trackers := rfl
@[simp] theorem State.setExtent_noticeQueues : (s.setExtent i x).noticeQueues = s.noticeQueues := rfl
@[simp] theorem State.setExtent_layout : (s.setExtent i x).layout = s.layout := rfl
@[simp] theorem State.setExtent_channels : (s.setExtent i x).channels = s.channels := rfl
@[simp] theorem State.setExtent_changeQueue : (s.setExtent i x).changeQueue = s.changeQueue := rfl
@[simp] theorem State.setExtent_nextChangeId : (s.setExtent i x).nextChangeId = s.nextChangeId := rfl
@[simp] theorem State.setExtent_active : (s.setExtent i x).active = s.active := rfl
@[simp] theorem State.setExtent_completions : (s.setExtent i x).completions = s.completions := rfl
@[simp] theorem State.setExtent_interrupted : (s.setExtent i x).interrupted = s.interrupted := rfl
@[simp] theorem State.setExtent_copyEngine : (s.setExtent i x).copyEngine = s.copyEngine := rfl
@[simp] theorem State.setExtent_limits : (s.setExtent i x).limits = s.limits := rfl
@[simp] theorem State.setExtent_holder : (s.setExtent i x).holder = s.holder := rfl
@[simp] theorem State.setExtent_eligible : (s.setExtent i x).eligible = s.eligible := rfl
@[simp] theorem State.setExtent_i2c : (s.setExtent i x).i2c = s.i2c := rfl
@[simp] theorem State.setExtent_slots : (s.setExtent i x).slots = s.slots := rfl
@[simp] theorem State.setExtent_lastReset : (s.setExtent i x).lastReset = s.lastReset := rfl
@[simp] theorem State.setExtent_fresh : (s.setExtent i x).fresh = s.fresh := rfl
@[simp] theorem State.setExtent_pending : (s.setExtent i x).pending = s.pending := rfl

@[simp] theorem State.setExtent_port (j : PortId) : (s.setExtent i x).port j = s.port j := rfl
@[simp] theorem State.setExtent_tracker (j : PortId) : (s.setExtent i x).tracker j = s.tracker j := rfl
@[simp] theorem State.setExtent_noticeQueue (j : PortId) : (s.setExtent i x).noticeQueue j = s.noticeQueue j := rfl
@[simp] theorem State.setExtent_channel (j : ChannelId) : (s.setExtent i x).channel j = s.channel j := rfl
@[simp] theorem State.setExtent_slot (j : PortId) : (s.setExtent i x).slot j = s.slot j := rfl
@[simp] theorem State.setExtent_extent (j : ExtentId) : (s.setExtent i x).extent j = if j = i then x else s.extent j := by
  simp only [State.setExtent, State.extent, Fin.getElem_fin, Vector.getElem_set]
  split <;> split <;> simp_all [Fin.ext_iff]
@[simp] theorem State.setExtent_extent_self : (s.setExtent i x).extent i = x := by simp
theorem State.setExtent_extent_ne (j : ExtentId) (h : j ≠ i) : (s.setExtent i x).extent j = s.extent j := by simp [h]

end

/-! ## setChannel -/

section

variable (s : State) (i : ChannelId) (x : Channel)

@[simp] theorem State.setChannel_power : (s.setChannel i x).power = s.power := rfl
@[simp] theorem State.setChannel_resetNLow : (s.setChannel i x).resetNLow = s.resetNLow := rfl
@[simp] theorem State.setChannel_straps : (s.setChannel i x).straps = s.straps := rfl
@[simp] theorem State.setChannel_ports : (s.setChannel i x).ports = s.ports := rfl
@[simp] theorem State.setChannel_trackers : (s.setChannel i x).trackers = s.trackers := rfl
@[simp] theorem State.setChannel_noticeQueues : (s.setChannel i x).noticeQueues = s.noticeQueues := rfl
@[simp] theorem State.setChannel_extents : (s.setChannel i x).extents = s.extents := rfl
@[simp] theorem State.setChannel_layout : (s.setChannel i x).layout = s.layout := rfl
@[simp] theorem State.setChannel_changeQueue : (s.setChannel i x).changeQueue = s.changeQueue := rfl
@[simp] theorem State.setChannel_nextChangeId : (s.setChannel i x).nextChangeId = s.nextChangeId := rfl
@[simp] theorem State.setChannel_active : (s.setChannel i x).active = s.active := rfl
@[simp] theorem State.setChannel_completions : (s.setChannel i x).completions = s.completions := rfl
@[simp] theorem State.setChannel_interrupted : (s.setChannel i x).interrupted = s.interrupted := rfl
@[simp] theorem State.setChannel_copyEngine : (s.setChannel i x).copyEngine = s.copyEngine := rfl
@[simp] theorem State.setChannel_limits : (s.setChannel i x).limits = s.limits := rfl
@[simp] theorem State.setChannel_holder : (s.setChannel i x).holder = s.holder := rfl
@[simp] theorem State.setChannel_eligible : (s.setChannel i x).eligible = s.eligible := rfl
@[simp] theorem State.setChannel_i2c : (s.setChannel i x).i2c = s.i2c := rfl
@[simp] theorem State.setChannel_slots : (s.setChannel i x).slots = s.slots := rfl
@[simp] theorem State.setChannel_lastReset : (s.setChannel i x).lastReset = s.lastReset := rfl
@[simp] theorem State.setChannel_fresh : (s.setChannel i x).fresh = s.fresh := rfl
@[simp] theorem State.setChannel_pending : (s.setChannel i x).pending = s.pending := rfl

@[simp] theorem State.setChannel_port (j : PortId) : (s.setChannel i x).port j = s.port j := rfl
@[simp] theorem State.setChannel_tracker (j : PortId) : (s.setChannel i x).tracker j = s.tracker j := rfl
@[simp] theorem State.setChannel_noticeQueue (j : PortId) : (s.setChannel i x).noticeQueue j = s.noticeQueue j := rfl
@[simp] theorem State.setChannel_extent (j : ExtentId) : (s.setChannel i x).extent j = s.extent j := rfl
@[simp] theorem State.setChannel_slot (j : PortId) : (s.setChannel i x).slot j = s.slot j := rfl
@[simp] theorem State.setChannel_channel (j : ChannelId) : (s.setChannel i x).channel j = if j = i then x else s.channel j := by
  simp only [State.setChannel, State.channel, Fin.getElem_fin, Vector.getElem_set]
  split <;> split <;> simp_all [Fin.ext_iff]
@[simp] theorem State.setChannel_channel_self : (s.setChannel i x).channel i = x := by simp
theorem State.setChannel_channel_ne (j : ChannelId) (h : j ≠ i) : (s.setChannel i x).channel j = s.channel j := by simp [h]

end

/-! ## setSlot -/

section

variable (s : State) (i : PortId) (x : Option Byte)

@[simp] theorem State.setSlot_power : (s.setSlot i x).power = s.power := rfl
@[simp] theorem State.setSlot_resetNLow : (s.setSlot i x).resetNLow = s.resetNLow := rfl
@[simp] theorem State.setSlot_straps : (s.setSlot i x).straps = s.straps := rfl
@[simp] theorem State.setSlot_ports : (s.setSlot i x).ports = s.ports := rfl
@[simp] theorem State.setSlot_trackers : (s.setSlot i x).trackers = s.trackers := rfl
@[simp] theorem State.setSlot_noticeQueues : (s.setSlot i x).noticeQueues = s.noticeQueues := rfl
@[simp] theorem State.setSlot_extents : (s.setSlot i x).extents = s.extents := rfl
@[simp] theorem State.setSlot_layout : (s.setSlot i x).layout = s.layout := rfl
@[simp] theorem State.setSlot_channels : (s.setSlot i x).channels = s.channels := rfl
@[simp] theorem State.setSlot_changeQueue : (s.setSlot i x).changeQueue = s.changeQueue := rfl
@[simp] theorem State.setSlot_nextChangeId : (s.setSlot i x).nextChangeId = s.nextChangeId := rfl
@[simp] theorem State.setSlot_active : (s.setSlot i x).active = s.active := rfl
@[simp] theorem State.setSlot_completions : (s.setSlot i x).completions = s.completions := rfl
@[simp] theorem State.setSlot_interrupted : (s.setSlot i x).interrupted = s.interrupted := rfl
@[simp] theorem State.setSlot_copyEngine : (s.setSlot i x).copyEngine = s.copyEngine := rfl
@[simp] theorem State.setSlot_limits : (s.setSlot i x).limits = s.limits := rfl
@[simp] theorem State.setSlot_holder : (s.setSlot i x).holder = s.holder := rfl
@[simp] theorem State.setSlot_eligible : (s.setSlot i x).eligible = s.eligible := rfl
@[simp] theorem State.setSlot_i2c : (s.setSlot i x).i2c = s.i2c := rfl
@[simp] theorem State.setSlot_lastReset : (s.setSlot i x).lastReset = s.lastReset := rfl
@[simp] theorem State.setSlot_fresh : (s.setSlot i x).fresh = s.fresh := rfl
@[simp] theorem State.setSlot_pending : (s.setSlot i x).pending = s.pending := rfl

@[simp] theorem State.setSlot_port (j : PortId) : (s.setSlot i x).port j = s.port j := rfl
@[simp] theorem State.setSlot_tracker (j : PortId) : (s.setSlot i x).tracker j = s.tracker j := rfl
@[simp] theorem State.setSlot_noticeQueue (j : PortId) : (s.setSlot i x).noticeQueue j = s.noticeQueue j := rfl
@[simp] theorem State.setSlot_extent (j : ExtentId) : (s.setSlot i x).extent j = s.extent j := rfl
@[simp] theorem State.setSlot_channel (j : ChannelId) : (s.setSlot i x).channel j = s.channel j := rfl
@[simp] theorem State.setSlot_slot (j : PortId) : (s.setSlot i x).slot j = if j = i then x else s.slot j := by
  simp only [State.setSlot, State.slot, Fin.getElem_fin, Vector.getElem_set]
  split <;> split <;> simp_all [Fin.ext_iff]
@[simp] theorem State.setSlot_slot_self : (s.setSlot i x).slot i = x := by simp
theorem State.setSlot_slot_ne (j : PortId) (h : j ≠ i) : (s.setSlot i x).slot j = s.slot j := by simp [h]

end

end Sys2Proof.Machine
end

