-- ==== Sys2Proof/Laws/Frames.lean ====
section
/-! SUPPORT. What each shared operation changes: for every operation, the fields it can touch, said once. -/

namespace Sys2Proof.Machine

/-! ## Packets -/

/-- Two vectors of Link Ports that differ at most in the packets handed to them. -/
def quietSame (a b : Vector LinkPort 4) : Prop := ∀ q : PortId, (a[q]).quiet = (b[q]).quiet

theorem quietSame_refl (a : Vector LinkPort 4) : quietSame a a := fun _ => rfl

theorem quietSame_trans {a b c : Vector LinkPort 4} (h : quietSame a b) (k : quietSame b c) : quietSame a c :=
  fun q => (h q).trans (k q)

/-- Quiet ports agree in every field but the packets. -/
theorem LinkPort.quiet_fields {a b : LinkPort} (h : a.quiet = b.quiet) :
    a.state = b.state ∧ a.bringUpTimer = b.bringUpTimer ∧ a.windowSize = b.windowSize ∧ a.readOffer = b.readOffer ∧
    a.writeOffer = b.writeOffer ∧ a.acceptance = b.acceptance ∧ a.grantedReads = b.grantedReads ∧
    a.grantedWrites = b.grantedWrites ∧ a.crcDrops = b.crcDrops ∧ a.protocolErrors = b.protocolErrors ∧
    a.orphanData = b.orphanData ∧ a.error = b.error := by
  simpa [LinkPort.quiet] using h

/-- Sending hands packets to one linked port and does nothing else. -/
theorem State.sendAll_linked {s : State} {p : PortId} (h : (s.port p).state.linked = true) (pkts : List OutPacket) :
    s.sendAll p pkts = s.setPort p { s.port p with outbox := (s.port p).outbox ++ pkts } := by simp [State.sendAll, h]

/-- A port that does not send discards. -/
theorem State.sendAll_unlinked {s : State} {p : PortId} (h : (s.port p).state.linked = false) (pkts : List OutPacket) :
    s.sendAll p pkts = s := by simp [State.sendAll, h]

theorem State.setPort_outbox_quietSame (s : State) (p : PortId) (pkts : List OutPacket) :
    quietSame (s.setPort p { s.port p with outbox := pkts }).ports s.ports := by
  intro q
  have h := State.setPort_port s p { s.port p with outbox := pkts } q
  simp only [State.port] at h ⊢
  rw [h]
  split
  · next e => subst e; rfl
  · rfl

theorem State.sendAll_frame (s : State) (p : PortId) (pkts : List OutPacket) :
    ∃ ports, s.sendAll p pkts = { s with ports := ports } ∧ quietSame ports s.ports := by
  unfold State.sendAll
  split
  · exact ⟨_, rfl, s.setPort_outbox_quietSame p _⟩
  · exact ⟨_, rfl, quietSame_refl _⟩

@[simp] theorem State.sendAll_nil (s : State) (p : PortId) : s.sendAll p [] = s := by
  unfold State.sendAll
  split
  · have : ({ s.port p with outbox := (s.port p).outbox ++ [] } : LinkPort) = s.port p := by simp
    rw [this]
    simp [State.setPort, State.port]
  · rfl

/-! ## Notices and records -/

theorem State.offerNotice_frame (s : State) (p : PortId) (body : NoticeBody) :
    ∃ ports queues, s.offerNotice p body = { s with ports := ports, noticeQueues := queues } ∧
      quietSame ports s.ports := by
  unfold State.offerNotice
  split
  · split
    · obtain ⟨ports, h, k⟩ := (s.setNoticeQueue p ((s.noticeQueue p).enter body)).sendAll_frame p
        [.notice ((s.noticeQueue p).stamp body)]
      exact ⟨ports, _, h, k⟩
    · split
      · exact ⟨_, _, rfl, quietSame_refl _⟩
      · exact ⟨_, _, rfl, quietSame_refl _⟩
  · exact ⟨_, _, rfl, quietSame_refl _⟩

/-- A notice offered to an OPEN port with room enters its queue and is handed to the port (R167). -/
theorem State.offerNotice_room {s : State} {p : PortId} (h : (s.port p).state = .opened)
    (k : (s.noticeQueue p).notices.length < 8) (body : NoticeBody) :
    s.offerNotice p body = (s.setNoticeQueue p ((s.noticeQueue p).enter body)).setPort p
      { s.port p with outbox := (s.port p).outbox ++ [.notice ((s.noticeQueue p).stamp body)] } := by
  simp only [State.offerNotice, h, if_true, Config.noticeQueueSize, k, State.send]
  rw [State.sendAll_linked (by rw [State.setNoticeQueue_port, h]; rfl)]
  simp only [State.setNoticeQueue_port, h]

theorem State.offerNotices_frame (s : State) (l : List (PortId × NoticeBody)) :
    ∃ ports queues, s.offerNotices l = { s with ports := ports, noticeQueues := queues } ∧
      quietSame ports s.ports := by
  induction l generalizing s with
  | nil => exact ⟨_, _, rfl, quietSame_refl _⟩
  | cons x rest ih =>
    obtain ⟨ports, queues, h, k⟩ := s.offerNotice_frame x.1 x.2
    obtain ⟨ports', queues', h', k'⟩ := ih (s.offerNotice x.1 x.2)
    refine ⟨ports', queues', ?_, ?_⟩
    · rw [State.offerNotices, h', h]
    · rw [h] at k'; exact quietSame_trans k' k

theorem State.postRecord_frame (s : State) (r : CompletionRecord) :
    ∃ ports queues, s.postRecord r =
        { s with ports := ports, noticeQueues := queues, completions := s.completions ++ [r] } ∧
      quietSame ports s.ports := by
  simp only [State.postRecord]
  split
  · exact State.offerNotice_frame _ _ _
  · exact ⟨_, _, rfl, quietSame_refl _⟩

theorem State.announce_frame (s : State) (r : CompletionRecord) (l : List (PortId × NoticeBody)) :
    ∃ ports queues, s.announce r l =
        { s with ports := ports, noticeQueues := queues, completions := s.completions ++ [r], fresh := s.fresh + 1 } ∧
      quietSame ports s.ports := by
  unfold State.announce
  split
  · obtain ⟨ports, queues, h, k⟩ := ({ s with fresh := s.fresh + 1 } : State).postRecord_frame r
    obtain ⟨ports', queues', h', k'⟩ :=
      (({ s with fresh := s.fresh + 1 } : State).postRecord r).offerNotices_frame l
    refine ⟨ports', queues', ?_, ?_⟩
    · rw [h', h]
    · rw [h] at k'; exact quietSame_trans k' k
  · obtain ⟨ports, queues, h, k⟩ := ({ s with fresh := s.fresh + 1 } : State).offerNotices_frame l
    obtain ⟨ports', queues', h', k'⟩ :=
      (({ s with fresh := s.fresh + 1 } : State).offerNotices l).postRecord_frame r
    refine ⟨ports', queues', ?_, ?_⟩
    · rw [h', h]
    · rw [h] at k'; exact quietSame_trans k' k

/-- The end of the head change: off the queue, nothing active, its record posted, and nothing else but notices. -/
theorem State.endHead_frame (s : State) (ch : ChangeRecord) (o : RecordOutcome) (l : List (PortId × NoticeBody)) :
    ∃ ports queues, s.endHead ch o l =
        { s with ports := ports, noticeQueues := queues, completions := s.completions ++ [s.changeRecord ch o],
                 fresh := s.fresh + 1, changeQueue := s.changeQueue.tail, active := none } ∧
      quietSame ports s.ports :=
  State.announce_frame _ _ _

/-! ## What a port was handed stays handed -/

theorem State.offerNotice_outbox (s : State) (p : PortId) (body : NoticeBody) (q : PortId) :
    ∃ sent, ((s.offerNotice p body).port q).outbox = (s.port q).outbox ++ sent := by
  simp only [State.offerNotice]
  split
  · split
    · simp only [State.send, State.sendAll]
      split
      · by_cases h : q = p
        · subst h
          exact ⟨[.notice ((s.noticeQueue q).stamp body)], by simp⟩
        · exact ⟨[], by simp [h]⟩
      · exact ⟨[], by simp⟩
    · split <;> exact ⟨[], by simp⟩
  · exact ⟨[], by simp⟩

theorem State.offerNotices_outbox (l : List (PortId × NoticeBody)) (s : State) (q : PortId) :
    ∃ sent, ((s.offerNotices l).port q).outbox = (s.port q).outbox ++ sent := by
  induction l generalizing s with
  | nil => exact ⟨[], (List.append_nil _).symm⟩
  | cons x rest ih =>
    obtain ⟨a, ha⟩ := ih (s.offerNotice x.1 x.2)
    obtain ⟨b, hb⟩ := s.offerNotice_outbox x.1 x.2 q
    exact ⟨b ++ a, by rw [State.offerNotices, ha, hb, List.append_assoc]⟩

theorem State.postRecord_outbox (s : State) (r : CompletionRecord) (q : PortId) :
    ∃ sent, ((s.postRecord r).port q).outbox = (s.port q).outbox ++ sent := by
  simp only [State.postRecord]
  split
  · exact State.offerNotice_outbox _ _ _ q
  · exact ⟨[], (List.append_nil _).symm⟩

theorem State.announce_outbox (s : State) (r : CompletionRecord) (l : List (PortId × NoticeBody)) (q : PortId) :
    ∃ sent, ((s.announce r l).port q).outbox = (s.port q).outbox ++ sent := by
  unfold State.announce
  split
  · obtain ⟨a, ha⟩ := State.offerNotices_outbox l (({ s with fresh := s.fresh + 1 } : State).postRecord r) q
    obtain ⟨b, hb⟩ := ({ s with fresh := s.fresh + 1 } : State).postRecord_outbox r q
    exact ⟨b ++ a, by rw [ha, hb, List.append_assoc]; rfl⟩
  · obtain ⟨a, ha⟩ := (({ s with fresh := s.fresh + 1 } : State).offerNotices l).postRecord_outbox r q
    obtain ⟨b, hb⟩ := State.offerNotices_outbox l ({ s with fresh := s.fresh + 1 } : State) q
    exact ⟨b ++ a, by rw [ha, hb, List.append_assoc]; rfl⟩

theorem State.endHead_outbox (s : State) (ch : ChangeRecord) (o : RecordOutcome) (l : List (PortId × NoticeBody))
    (q : PortId) : ∃ sent, ((s.endHead ch o l).port q).outbox = (s.port q).outbox ++ sent :=
  State.announce_outbox _ _ _ q

theorem State.finishCopy_frame (s : State) (r : CompletionRecord) :
    ∃ ports queues, quietSame ports s.ports ∧
      s.finishCopy r =
        if s.placeFree then
          { s with ports := ports, noticeQueues := queues, copyEngine := .idle, completions := s.completions ++ [r] }
        else { s with copyEngine := .ending r } := by
  unfold State.finishCopy
  split
  · obtain ⟨ports, queues, h, k⟩ := ({ s with copyEngine := .idle } : State).postRecord_frame r
    exact ⟨ports, queues, k, h⟩
  · exact ⟨s.ports, s.noticeQueues, quietSame_refl _, rfl⟩

/-- Ports that are not OPEN, and their notice queues, are alike in two states. -/
def closedSame (s t : State) : Prop :=
  ∀ q : PortId, (s.port q).state ≠ .opened → t.port q = s.port q ∧ t.noticeQueue q = s.noticeQueue q

theorem closedSame_refl (s : State) : closedSame s s := fun _ _ => ⟨rfl, rfl⟩

theorem closedSame_trans {s t u : State} (h : closedSame s t) (k : closedSame t u) : closedSame s u := fun q hq => by
  obtain ⟨h1, h2⟩ := h q hq
  obtain ⟨k1, k2⟩ := k q (by rw [h1]; exact hq)
  exact ⟨k1.trans h1, k2.trans h2⟩

/-- A notice offered leaves the ports that are not OPEN, and their queues, as they were (R167). -/
theorem State.offerNotice_closedSame (s : State) (p : PortId) (body : NoticeBody) :
    closedSame s (s.offerNotice p body) := by
  intro q hq
  simp only [State.offerNotice]
  by_cases h : (s.port p).state = .opened
  · have hqp : q ≠ p := fun e => hq (e ▸ h)
    simp only [h, if_true]
    split
    · simp only [State.send, State.sendAll]
      split <;> simp [hqp]
    · split <;> simp [hqp]
  · simp [h]

theorem State.offerNotices_closedSame (s : State) (l : List (PortId × NoticeBody)) :
    closedSame s (s.offerNotices l) := by
  induction l generalizing s with
  | nil => exact closedSame_refl s
  | cons x rest ih => exact closedSame_trans (s.offerNotice_closedSame x.1 x.2) (ih _)

theorem State.postRecord_closedSame (s : State) (r : CompletionRecord) : closedSame s (s.postRecord r) := by
  simp only [State.postRecord]
  split
  · exact State.offerNotice_closedSame { s with completions := s.completions ++ [r] } _ _
  · exact closedSame_refl s

theorem State.announce_closedSame (s : State) (r : CompletionRecord) (l : List (PortId × NoticeBody)) :
    closedSame s (s.announce r l) := by
  simp only [State.announce]
  split
  · exact closedSame_trans (State.postRecord_closedSame { s with fresh := s.fresh + 1 } r)
      (State.offerNotices_closedSame _ l)
  · exact closedSame_trans (State.offerNotices_closedSame { s with fresh := s.fresh + 1 } l)
      (State.postRecord_closedSame _ r)

theorem State.endHead_closedSame (s : State) (ch : ChangeRecord) (o : RecordOutcome) (l : List (PortId × NoticeBody)) :
    closedSame s (s.endHead ch o l) :=
  State.announce_closedSame { s with changeQueue := s.changeQueue.tail, active := none } _ l

/-! ## Extent records -/

theorem State.activate_some {s : State} {x : ExtentId} {b : ExtentBody} (h : (s.extent x).body? = some b)
    (f : ExtentBody → ExtentBody) : s.activate x f = s.setExtent x (.active (f b)) := by simp [State.activate, h]

theorem State.activate_frame (s : State) (x : ExtentId) (f : ExtentBody → ExtentBody) :
    ∃ extents, s.activate x f = { s with extents := extents } := by
  unfold State.activate
  split <;> exact ⟨_, rfl⟩

/-! ## Handovers -/

/-- The end of a handover: the extent's record written anew, and the head change ended with an outcome. -/
theorem State.activate_endHead_frame (s : State) (x : ExtentId) (f : ExtentBody → ExtentBody) (ch : ChangeRecord)
    (o : RecordOutcome) (l : List (PortId × NoticeBody)) :
    ∃ ports queues, (s.activate x f).endHead ch o l =
        { s with ports := ports, noticeQueues := queues, extents := (s.activate x f).extents,
                 completions := s.completions ++ [(s.activate x f).changeRecord ch o], fresh := s.fresh + 1,
                 changeQueue := s.changeQueue.tail, active := none } ∧
      quietSame ports s.ports ∧ closedSame s ((s.activate x f).endHead ch o l) := by
  obtain ⟨extents, h⟩ := s.activate_frame x f
  obtain ⟨ports, queues, k, q⟩ := (s.activate x f).endHead_frame ch o l
  have c := (s.activate x f).endHead_closedSame ch o l
  refine ⟨ports, queues, ?_, ?_, ?_⟩
  · rw [k, h]
  · rw [h] at q; exact q
  · intro p hp
    obtain ⟨c1, c2⟩ := c p (by rw [h]; exact hp)
    exact ⟨c1.trans (by rw [h]; rfl), c2.trans (by rw [h]; rfl)⟩

theorem State.commitHandover_frame (s : State) (h : Handover) :
    ∃ ports queues r, s.commitHandover h =
        { s with ports := ports, noticeQueues := queues,
                 extents := (s.activate h.extent (fun b => (h.kind.apply h.losing b).advance)).extents,
                 completions := s.completions ++ [r], fresh := s.fresh + 1,
                 changeQueue := s.changeQueue.tail, active := none } ∧
      quietSame ports s.ports ∧ closedSame s (s.commitHandover h) := by
  obtain ⟨ports, queues, k, q⟩ := s.activate_endHead_frame h.extent (fun b => (h.kind.apply h.losing b).advance)
    h.change h.doneOutcome (h.commitNotices (((s.activate h.extent
      (fun b => (h.kind.apply h.losing b).advance)).generationOf h.extent).getD 0))
  exact ⟨ports, queues, _, k, q⟩

/-- Entry to DRAIN: the handover waits in DRAIN, or commits when its count is 0 (R131). -/
theorem State.enterDrain_cases (s : State) (h : Handover) (c : Confirmation) :
    s.enterDrain h c = { s with active := some (h.toDrain c s.limits.drain) } ∨
    s.enterDrain h c =
      ({ s with active := some (h.toDrain c s.limits.drain) } : State).commitHandover (h.toDrain c s.limits.drain) := by
  simp only [State.enterDrain]
  split
  · exact Or.inr rfl
  · exact Or.inl rfl

/-- The loss of a port touches the Change Engine, the Extent Table and the notices at most (R129). -/
theorem State.confirmByLoss_frame (s : State) (p : PortId) :
    ∃ ports queues extents completions fresh changeQueue active,
      s.confirmByLoss p = { s with ports := ports, noticeQueues := queues, extents := extents,
                                   completions := completions, fresh := fresh, changeQueue := changeQueue,
                                   active := active } ∧
      quietSame ports s.ports ∧ closedSame s (s.confirmByLoss p) := by
  simp only [State.confirmByLoss]
  split
  · next h _ =>
    split
    · rcases s.enterDrain_cases h .confirmedByLoss with e | e
      · rw [e]; exact ⟨_, _, _, _, _, _, _, rfl, quietSame_refl _, closedSame_refl _⟩
      · obtain ⟨ports, queues, r, k, q, c⟩ := ({ s with active := some (h.toDrain .confirmedByLoss s.limits.drain) } :
          State).commitHandover_frame (h.toDrain .confirmedByLoss s.limits.drain)
        rw [e]
        exact ⟨_, _, _, _, _, _, _, k, q, c⟩
    · exact ⟨_, _, _, _, _, _, _, rfl, quietSame_refl _, closedSame_refl _⟩
  · exact ⟨_, _, _, _, _, _, _, rfl, quietSame_refl _, closedSame_refl _⟩

/-! ## Trackers -/

theorem State.applyFates_frame (s : State) (p : PortId) (f : Entry → Fate) :
    ∃ ports, s.applyFates p f = { s.setTracker p (keptEntries f (s.tracker p)) with ports := ports } ∧
      quietSame ports s.ports :=
  State.sendAll_frame _ _ _

theorem State.applyFates_tracker (s : State) (p q : PortId) (f : Entry → Fate) :
    (s.applyFates p f).tracker q = if q = p then keptEntries f (s.tracker p) else s.tracker q := by
  obtain ⟨ports, h, -⟩ := s.applyFates_frame p f
  rw [h]
  exact State.setTracker_tracker s p _ q

theorem State.applyFatesAll_frame (s : State) (f : Entry → Fate) :
    ∃ ports trackers, s.applyFatesAll f = { s with ports := ports, trackers := trackers } ∧
      quietSame ports s.ports := by
  suffices h : ∀ (l : List PortId) (s : State), ∃ ports trackers,
      l.foldl (fun s p => s.applyFates p f) s = { s with ports := ports, trackers := trackers } ∧
        quietSame ports s.ports from h allPorts s
  intro l
  induction l with
  | nil => exact fun s => ⟨_, _, rfl, quietSame_refl _⟩
  | cons p rest ih =>
    intro s
    obtain ⟨ports, h, k⟩ := s.applyFates_frame p f
    obtain ⟨ports', trackers', h', k'⟩ := ih (s.applyFates p f)
    refine ⟨ports', trackers', ?_, ?_⟩
    · rw [List.foldl_cons, h', h]; rfl
    · rw [h] at k'; exact quietSame_trans k' k

theorem State.applyFatesAll_tracker (s : State) (f : Entry → Fate) (q : PortId) :
    (s.applyFatesAll f).tracker q = keptEntries f (s.tracker q) := by
  have h : q = 0 ∨ q = 1 ∨ q = 2 ∨ q = 3 := by revert q; decide
  simp only [State.applyFatesAll, allPorts, List.foldl_cons, List.foldl_nil, State.applyFates_tracker]
  rcases h with h | h | h | h <;> subst h <;> simp

/-- An entry that stays came from an entry of the tracker. -/
theorem mem_keptEntries {f : Entry → Fate} {l : List Entry} {e : Entry} :
    e ∈ keptEntries f l ↔ ∃ e' ∈ l, f e' = .keep e := by
  induction l with
  | nil => simp [keptEntries]
  | cons x rest ih =>
    simp only [keptEntries]
    split
    · next e' h => simp [h, ih, eq_comm]
    · next h =>
      constructor
      · intro m
        obtain ⟨e', he, k⟩ := ih.mp m
        exact ⟨e', List.mem_cons_of_mem _ he, k⟩
      · rintro ⟨e', he, k⟩
        rcases List.mem_cons.mp he with he | he
        · exact absurd (he ▸ k) (h e)
        · exact ih.mpr ⟨e', he, k⟩

theorem length_keptEntries_le (f : Entry → Fate) (l : List Entry) : (keptEntries f l).length ≤ l.length := by
  induction l with
  | nil => exact Nat.le_refl _
  | cons x rest ih =>
    simp only [keptEntries]
    split <;> simp <;> omega

theorem keptEntries_append (f : Entry → Fate) (l m : List Entry) :
    keptEntries f (l ++ m) = keptEntries f l ++ keptEntries f m := by
  induction l with
  | nil => rfl
  | cons x rest ih =>
    simp only [List.cons_append, keptEntries]
    split <;> simp [ih]

theorem answers_append (f : Entry → Fate) (l m : List Entry) : answers f (l ++ m) = answers f l ++ answers f m := by
  induction l with
  | nil => rfl
  | cons x rest ih =>
    simp only [List.cons_append, answers]
    split <;> simp [ih]

theorem keptEntries_cons_keep {f : Entry → Fate} {e e' : Entry} (h : f e = .keep e') (l : List Entry) :
    keptEntries f (e :: l) = e' :: keptEntries f l := by simp [keptEntries, h]

theorem keptEntries_cons_answer {f : Entry → Fate} {e : Entry} {pkt : OutPacket} (h : f e = .answer pkt)
    (l : List Entry) : keptEntries f (e :: l) = keptEntries f l := by simp [keptEntries, h]

theorem keptEntries_cons_leave {f : Entry → Fate} {e : Entry} (h : f e = .leave) (l : List Entry) :
    keptEntries f (e :: l) = keptEntries f l := by simp [keptEntries, h]

theorem answers_cons_keep {f : Entry → Fate} {e e' : Entry} (h : f e = .keep e') (l : List Entry) :
    answers f (e :: l) = answers f l := by simp [answers, h]

theorem answers_cons_answer {f : Entry → Fate} {e : Entry} {pkt : OutPacket} (h : f e = .answer pkt)
    (l : List Entry) : answers f (e :: l) = pkt :: answers f l := by simp [answers, h]

theorem answers_cons_leave {f : Entry → Fate} {e : Entry} (h : f e = .leave) (l : List Entry) :
    answers f (e :: l) = answers f l := by simp [answers, h]

/-- Where no entry leaves in silence, every entry stays or is answered. -/
theorem length_answers_keptEntries {f : Entry → Fate} (h : ∀ e, f e ≠ .leave) (l : List Entry) :
    (answers f l).length + (keptEntries f l).length = l.length := by
  induction l with
  | nil => rfl
  | cons e rest ih =>
    cases k : f e with
    | leave => exact absurd k (h e)
    | keep e' => rw [answers_cons_keep k, keptEntries_cons_keep k]; simp only [List.length_cons]; omega
    | answer pkt => rw [answers_cons_answer k, keptEntries_cons_answer k]; simp only [List.length_cons]; omega

/-- Entries that an event does not touch stay as they are. -/
theorem keptEntries_id {f : Entry → Fate} {l : List Entry} (h : ∀ e ∈ l, f e = .keep e) : keptEntries f l = l := by
  induction l with
  | nil => rfl
  | cons x rest ih =>
    simp only [List.forall_mem_cons] at h
    simp [keptEntries, h.1, ih h.2]

theorem answers_nil {f : Entry → Fate} {l : List Entry} (h : ∀ e ∈ l, ∀ pkt, f e ≠ .answer pkt) : answers f l = [] := by
  induction l with
  | nil => rfl
  | cons x rest ih =>
    simp only [List.forall_mem_cons] at h
    simp only [answers]
    split
    · next pkt hp => exact absurd hp (h.1 pkt)
    · exact ih h.2

/-- An event that touches one entry alone: the entry it answers leaves. -/
theorem keptEntries_one_answered {f : Entry → Fate} {l1 l2 : List Entry} {e : Entry} {pkt : OutPacket}
    (h : f e = .answer pkt) (k : ∀ x ∈ l1 ++ l2, f x = .keep x) :
    keptEntries f (l1 ++ e :: l2) = l1 ++ l2 ∧ answers f (l1 ++ e :: l2) = [pkt] := by
  simp only [List.mem_append] at k
  have k1 : ∀ x ∈ l1, f x = .keep x := fun x hx => k x (Or.inl hx)
  have k2 : ∀ x ∈ l2, f x = .keep x := fun x hx => k x (Or.inr hx)
  constructor
  · rw [keptEntries_append, keptEntries_cons_answer h, keptEntries_id k1, keptEntries_id k2]
  · rw [answers_append, answers_cons_answer h, answers_nil (fun x hx pkt => by simp [k1 x hx]),
      answers_nil (fun x hx pkt => by simp [k2 x hx])]
    rfl

/-- One entry leaves with its response or, when it is RETIRING, without one (R88), and every other stays. -/
theorem keptEntries_one_left {f : Entry → Fate} {l1 l2 : List Entry} {e : Entry} {pkt : OutPacket}
    (h : f e = e.leaveWith pkt) (k : ∀ x ∈ l1 ++ l2, f x = .keep x) :
    keptEntries f (l1 ++ e :: l2) = l1 ++ l2 ∧
      answers f (l1 ++ e :: l2) = if e.state = .retiring then [] else [pkt] := by
  by_cases hr : e.state = .retiring
  · simp only [Entry.leaveWith, hr, if_true] at h
    simp only [List.mem_append] at k
    have k1 : ∀ x ∈ l1, f x = .keep x := fun x hx => k x (Or.inl hx)
    have k2 : ∀ x ∈ l2, f x = .keep x := fun x hx => k x (Or.inr hx)
    constructor
    · rw [keptEntries_append, keptEntries_cons_leave h, keptEntries_id k1, keptEntries_id k2]
    · rw [answers_append, answers_cons_leave h, answers_nil (fun x hx pkt => by simp [k1 x hx]),
        answers_nil (fun x hx pkt => by simp [k2 x hx])]
      simp [hr]
  · simp only [Entry.leaveWith, hr, if_false] at h ⊢
    exact keptEntries_one_answered h k

/-- The same of a port's tracker, on a port that receives packets or for a RETIRING entry. -/
theorem State.applyFates_one_left {s : State} {p : PortId} {f : Entry → Fate} {l1 l2 : List Entry} {e : Entry}
    {pkt : OutPacket} (ht : s.tracker p = l1 ++ e :: l2) (h : f e = e.leaveWith pkt)
    (k : ∀ x ∈ l1 ++ l2, f x = .keep x) (hl : e.state = .retiring ∨ (s.port p).state.linked = true) :
    s.applyFates p f = (s.setTracker p (l1 ++ l2)).setPort p
      { s.port p with outbox := (s.port p).outbox ++ if e.state = .retiring then [] else [pkt] } := by
  have key := keptEntries_one_left h k
  simp only [State.applyFates, ht, key.1, key.2]
  rcases hl with hr | hl
  · have hid : ({ s.port p with outbox := (s.port p).outbox ++ [] } : LinkPort) = s.port p := by simp
    rw [if_pos hr, State.sendAll_nil, hid]
    simp [State.setPort, State.port, State.setTracker]
  · rw [State.sendAll_linked (by simpa using hl)]
    simp

/-! ## Requests -/

theorem State.respond_frame (s : State) (path : MgmtPath) (r : MgmtResponse) :
    ∃ ports i2c slots, s.respond path r = { s with ports := ports, i2c := i2c, slots := slots } ∧
      quietSame ports s.ports := by
  cases path with
  | i2c => exact ⟨_, _, _, rfl, quietSame_refl _⟩
  | inBand p =>
    obtain ⟨ports, h, k⟩ := s.sendAll_frame p [.mgmtResponse r]
    refine ⟨ports, s.i2c, s.slots.set p none, ?_, k⟩
    simp only [State.respond, State.send, h]
    rfl

theorem State.takeRequest_frame (s : State) (path : MgmtPath) (kind : Byte) :
    ∃ i2c slots, s.takeRequest path kind = { s with i2c := i2c, slots := slots } := by
  cases path <;> exact ⟨_, _, rfl⟩

/-! ## What takeRequest keeps -/

section

variable (s : State) (path : MgmtPath) (kind : Byte)

@[simp] theorem State.takeRequest_power : (s.takeRequest path kind).power = s.power := by cases path <;> rfl
@[simp] theorem State.takeRequest_resetNLow : (s.takeRequest path kind).resetNLow = s.resetNLow := by cases path <;> rfl
@[simp] theorem State.takeRequest_straps : (s.takeRequest path kind).straps = s.straps := by cases path <;> rfl
@[simp] theorem State.takeRequest_ports : (s.takeRequest path kind).ports = s.ports := by cases path <;> rfl
@[simp] theorem State.takeRequest_trackers : (s.takeRequest path kind).trackers = s.trackers := by cases path <;> rfl
@[simp] theorem State.takeRequest_noticeQueues : (s.takeRequest path kind).noticeQueues = s.noticeQueues := by cases path <;> rfl
@[simp] theorem State.takeRequest_extents : (s.takeRequest path kind).extents = s.extents := by cases path <;> rfl
@[simp] theorem State.takeRequest_layout : (s.takeRequest path kind).layout = s.layout := by cases path <;> rfl
@[simp] theorem State.takeRequest_channels : (s.takeRequest path kind).channels = s.channels := by cases path <;> rfl
@[simp] theorem State.takeRequest_changeQueue : (s.takeRequest path kind).changeQueue = s.changeQueue := by cases path <;> rfl
@[simp] theorem State.takeRequest_nextChangeId : (s.takeRequest path kind).nextChangeId = s.nextChangeId := by cases path <;> rfl
@[simp] theorem State.takeRequest_active : (s.takeRequest path kind).active = s.active := by cases path <;> rfl
@[simp] theorem State.takeRequest_completions : (s.takeRequest path kind).completions = s.completions := by cases path <;> rfl
@[simp] theorem State.takeRequest_interrupted : (s.takeRequest path kind).interrupted = s.interrupted := by cases path <;> rfl
@[simp] theorem State.takeRequest_copyEngine : (s.takeRequest path kind).copyEngine = s.copyEngine := by cases path <;> rfl
@[simp] theorem State.takeRequest_limits : (s.takeRequest path kind).limits = s.limits := by cases path <;> rfl
@[simp] theorem State.takeRequest_holder : (s.takeRequest path kind).holder = s.holder := by cases path <;> rfl
@[simp] theorem State.takeRequest_eligible : (s.takeRequest path kind).eligible = s.eligible := by cases path <;> rfl
@[simp] theorem State.takeRequest_lastReset : (s.takeRequest path kind).lastReset = s.lastReset := by cases path <;> rfl
@[simp] theorem State.takeRequest_fresh : (s.takeRequest path kind).fresh = s.fresh := by cases path <;> rfl
@[simp] theorem State.takeRequest_pending : (s.takeRequest path kind).pending = s.pending := by cases path <;> rfl
@[simp] theorem State.takeRequest_port (p : PortId) : (s.takeRequest path kind).port p = s.port p := by cases path <;> rfl
@[simp] theorem State.takeRequest_tracker (p : PortId) : (s.takeRequest path kind).tracker p = s.tracker p := by cases path <;> rfl
@[simp] theorem State.takeRequest_noticeQueue (p : PortId) : (s.takeRequest path kind).noticeQueue p = s.noticeQueue p := by cases path <;> rfl
@[simp] theorem State.takeRequest_extent (p : ExtentId) : (s.takeRequest path kind).extent p = s.extent p := by cases path <;> rfl
@[simp] theorem State.takeRequest_channel (p : ChannelId) : (s.takeRequest path kind).channel p = s.channel p := by cases path <;> rfl

end

/-- A request that is taken: the owning block decides it, and its answer is returned. -/
theorem State.request_taken {s : State} {path : MgmtPath} (h : s.receives path) (kind : Byte)
    (act : State → State × Reply) :
    s.request path kind act =
      match (act (s.takeRequest path kind)).2 with
      | .now st data => (act (s.takeRequest path kind)).1.answered path kind st data
      | .later => (act (s.takeRequest path kind)).1
      | .nothing => (act (s.takeRequest path kind)).1 := by
  have h' : s.reception path = .taken := h
  unfold State.request State.answered
  first | (rw [h']; done) | (rw [h']; rfl)

/-- A request that changes nothing and answers at once leaves nothing of its own but the response. -/
theorem State.answered_takeRequest (s : State) (path : MgmtPath) (kind kind' : Byte) (st : MgmtStatus)
    (data : List Byte) :
    (s.takeRequest path kind).answered path kind' st data = s.answered path kind' st data := by
  cases path with
  | i2c => rfl
  | inBand p =>
    simp only [State.answered, State.respond, State.send, State.takeRequest]
    cases h : (s.port p).state.linked
    · have h' : ((s.setSlot p (some kind)).port p).state.linked = false := h
      rw [State.sendAll_unlinked h, State.sendAll_unlinked h']
      simp [State.setSlot]
    · have h' : ((s.setSlot p (some kind)).port p).state.linked = true := h
      rw [State.sendAll_linked h, State.sendAll_linked h']
      simp [State.setSlot, State.setPort, State.port]

/-- A request answered at once, whose effect does not touch what taking it marked: the effect and the response. -/
theorem State.request_changed {s t : State} {path : MgmtPath} {kind : Byte} {act : State → State × Reply}
    {st : MgmtStatus} {data : List Byte} (h : s.receives path)
    (k : act (s.takeRequest path kind) = (t.takeRequest path kind, .now st data)) :
    s.request path kind act = t.answered path kind st data := by
  rw [State.request_taken h, k]
  exact t.answered_takeRequest path kind kind st data

/-- A request answered at once with the state unchanged. -/
theorem State.request_unchanged {s : State} {path : MgmtPath} (h : s.receives path) (kind : Byte) (st : MgmtStatus)
    (data : List Byte) {act : State → State × Reply}
    (k : act (s.takeRequest path kind) = (s.takeRequest path kind, .now st data)) :
    s.request path kind act = s.answered path kind st data := by
  rw [State.request_taken h, k]
  exact s.answered_takeRequest path kind kind st data

theorem State.holderOnly_holder {s : State} {path : MgmtPath} (h : s.holder = pathHolder path)
    (act : State → State × Reply) : s.holderOnly path act = act s := by simp [State.holderOnly, State.isHolder, h]

theorem State.holderOnly_other {s : State} {path : MgmtPath} (h : s.holder ≠ pathHolder path)
    (act : State → State × Reply) : s.holderOnly path act = (s, .status .notHolder) := by
  simp [State.holderOnly, State.isHolder, h]

/-- A request that is not received has no effect. -/
theorem State.request_notReceived {s : State} {path : MgmtPath} (h : s.reception path = .notReceived) (kind : Byte)
    (act : State → State × Reply) : s.request path kind act = s := by simp [State.request, h]

/-! ## Commands -/

theorem State.whenRunning_running {s : State} (h : s.power = .running) (f : State → State) : s.whenRunning f = f s := by
  simp [State.whenRunning, h]

theorem State.onPacket_hears {s : State} {p : PortId} (h : s.hears p) (f : State → State) : s.onPacket p f = f s := by
  obtain ⟨h1, h2⟩ := h
  have : (s.port p).state.linked = true := by rcases h2 with h2 | h2 | h2 <;> rw [h2] <;> rfl
  simp [State.onPacket, State.whenRunning, h1, this]

theorem State.onPacket_cases (s : State) (p : PortId) (f : State → State) :
    s.onPacket p f = s ∨ s.onPacket p f = f s := by
  simp only [State.onPacket, State.whenRunning]
  split
  · split
    · exact Or.inr rfl
    · exact Or.inl rfl
  · exact Or.inl rfl

end Sys2Proof.Machine
end

