-- ==== Sys2Proof/Laws/Changes.lean ====
section
/-! SUPPORT. What the end of a change leaves alone and what it posts, in the words of the statements. -/

namespace Sys2Proof.Machine

theorem State.startable_of_starts {s : State} {ch : ChangeRecord} (h : s.starts ch) : s.startable = some ch := by
  obtain ⟨_, h1, h2, h3⟩ := h
  simp [State.startable, h1, h2, h3]

/-- A start runs its change's validation and outcome. -/
theorem State.startHead_starts {s : State} {ch : ChangeRecord} (h : s.starts ch) (act : State → ChangeRecord → State) :
    s.startHead act = act s ch := by
  simp [State.startHead, State.whenRunning_running h.1, State.startable_of_starts h]

theorem State.validated_pass {s : State} {ch : ChangeRecord} {checks : List (Bool × RejectReason)}
    (h : firstFailure checks = none) (pass : State → State) : s.validated ch checks pass = pass s := by
  simp [State.validated, h]

theorem State.validated_fail {s : State} {ch : ChangeRecord} {checks : List (Bool × RejectReason)}
    {reason : RejectReason} (h : firstFailure checks = some reason) (pass : State → State) :
    s.validated ch checks pass = s.rejectHead ch reason := by simp [State.validated, h]

/-- All checks pass exactly when none fails. -/
theorem firstFailure_none {checks : List (Bool × RejectReason)} :
    firstFailure checks = none ↔ ∀ x ∈ checks, x.1 = false := by
  induction checks with
  | nil => simp [firstFailure]
  | cons x rest ih =>
    simp only [firstFailure, List.forall_mem_cons]
    split <;> simp_all

theorem State.sameBeside_refl (s : State) (x : Option ExtentId) : s.sameBeside s x := by simp [State.sameBeside]

theorem State.sameBeside_setExtent (s : State) (x : ExtentId) (e : Extent) :
    s.sameBeside (s.setExtent x e) (some x) := by
  simp only [State.sameBeside, State.setExtent_power, State.setExtent_resetNLow, State.setExtent_straps,
    State.setExtent_pending, State.setExtent_trackers, State.setExtent_channels, State.setExtent_layout,
    State.setExtent_limits, State.setExtent_holder, State.setExtent_eligible, State.setExtent_i2c,
    State.setExtent_slots, State.setExtent_interrupted, State.setExtent_lastReset, State.setExtent_nextChangeId,
    State.setExtent_port, true_and, implies_true]
  intro y hy
  exact State.setExtent_extent_ne s x e y (fun h => hy (h ▸ rfl))

/-- The end of the head change keeps what was alike. -/
theorem State.sameBeside_endHead {s t : State} {x : Option ExtentId} (h : s.sameBeside t x) (ch : ChangeRecord)
    (o : RecordOutcome) (l : List (PortId × NoticeBody)) : s.sameBeside (t.endHead ch o l) x := by
  obtain ⟨ports, queues, e, q⟩ := t.endHead_frame ch o l
  unfold State.sameBeside at *
  rw [e]
  obtain ⟨h1, h2, h3, h4, h5, h6, h7, h8, h9, h10, h11, h12, h13, h14, h15, h16, h17⟩ := h
  exact ⟨h1, h2, h3, h4, h5, h6, h7, h8, h9, h10, h11, h12, h13, h14, h15, fun p => (q p).trans (h16 p), h17⟩

theorem State.endedWith_endHead {s t : State} {ch : ChangeRecord} {o : RecordOutcome} {r : CompletionRecord}
    (h : t.changeQueue = s.changeQueue) (h2 : t.completions = s.completions) (hr : t.changeRecord ch o = r)
    (l : List (PortId × NoticeBody)) : s.endedWith (t.endHead ch o l) r := by
  obtain ⟨ports, queues, e, _⟩ := t.endHead_frame ch o l
  unfold State.endedWith
  rw [e]
  exact ⟨by simp [h], rfl, by simp [h2, hr]⟩

theorem State.endHead_extent (t : State) (ch : ChangeRecord) (o : RecordOutcome) (l : List (PortId × NoticeBody))
    (x : ExtentId) : (t.endHead ch o l).extent x = t.extent x := by
  obtain ⟨ports, queues, e, _⟩ := t.endHead_frame ch o l
  rw [e]; rfl

theorem State.endHead_copyEngine (t : State) (ch : ChangeRecord) (o : RecordOutcome) (l : List (PortId × NoticeBody)) :
    (t.endHead ch o l).copyEngine = t.copyEngine := by
  obtain ⟨ports, queues, e, _⟩ := t.endHead_frame ch o l
  rw [e]

/-- The count of a handover is 0 exactly when no entry of the losing port is counted (R85). -/
theorem State.countedEntries_eq_zero (s : State) (h : Handover) :
    s.countedEntries h = 0 ↔ ∀ e ∈ s.tracker h.losing, e.extent = h.extent → h.kind = .downgrade ∧ e.kind = .read := by
  simp only [State.countedEntries, List.length_eq_zero_iff, List.filter_eq_nil_iff, Handover.writesOnly]
  constructor
  · intro k e he hx
    have := k e he
    cases hk : e.kind <;> by_cases hd : h.kind = .downgrade <;> simp_all
  · intro k e he
    by_cases hx : e.extent = h.extent
    · have := k e he hx
      simp [this]
    · simp [hx]

/-- A force abort takes exactly the entries that the statements name, and every other entry stays (R86). -/
theorem Handover.onForceAbort_eq (h : Handover) (e : Entry) :
    Entry.onForceAbort h.extent h.writesOnly e =
      if h.forceTakes e = true then .answer (e.abort .forced) else .keep e := by
  have same : (e.waiting && decide (e.extent = h.extent) && (!h.writesOnly || decide (e.kind = .write))) =
      h.forceTakes e := by
    simp only [Handover.forceTakes, Entry.waiting, Handover.writesOnly, ne_eq, decide_not]
  simp only [Entry.onForceAbort, same]

theorem Handover.keptEntries_onForceAbort (h : Handover) (l : List Entry) :
    keptEntries (Entry.onForceAbort h.extent h.writesOnly) l = l.filter (fun e => !h.forceTakes e) := by
  induction l with
  | nil => rfl
  | cons e rest ih =>
    simp only [keptEntries, Handover.onForceAbort_eq, ih, List.filter_cons]
    cases h.forceTakes e <;> simp

theorem Handover.answers_onForceAbort (h : Handover) (l : List Entry) :
    answers (Entry.onForceAbort h.extent h.writesOnly) l = (l.filter h.forceTakes).map (fun e => e.abort .forced) := by
  induction l with
  | nil => rfl
  | cons e rest ih =>
    simp only [answers, Handover.onForceAbort_eq, ih, List.filter_cons]
    cases h.forceTakes e <;> simp

end Sys2Proof.Machine
end

