-- ==== Sys2Proof/Laws/Memory.lean ====
section
/-! SUPPORT. What one line's write does to the contents of a channel, and that every operation over them keeps the
canonical form. -/

namespace Sys2Proof.Machine

/-! ## Cell lists -/

theorem cellsRising_weaken {lo hi : Nat} (h : lo ≤ hi) {l : List (Nat × LineContent)} (w : cellsRising hi l = true) :
    cellsRising lo l = true := by
  cases l with
  | nil => rfl
  | cons x rest =>
    simp only [cellsRising, Bool.and_eq_true, decide_eq_true_eq] at w ⊢
    exact ⟨Nat.le_trans h w.1, w.2⟩

theorem lookupCell_below {lo line : Nat} (h : line < lo) {l : List (Nat × LineContent)} (w : cellsRising lo l = true) :
    lookupCell line l = none := by
  induction l generalizing lo with
  | nil => rfl
  | cons x rest ih =>
    simp only [cellsRising, Bool.and_eq_true, decide_eq_true_eq] at w
    have : x.1 ≠ line := by omega
    simp only [lookupCell, this, if_false]
    exact ih (by omega) w.2

theorem lookupCell_eraseCell {lo : Nat} (line other : Nat) {l : List (Nat × LineContent)} (w : cellsRising lo l = true) :
    lookupCell other (eraseCell line l) = if other = line then none else lookupCell other l := by
  induction l generalizing lo with
  | nil => simp [eraseCell, lookupCell]
  | cons x rest ih =>
    simp only [cellsRising, Bool.and_eq_true, decide_eq_true_eq] at w
    by_cases hx : x.1 = line
    · have hb : lookupCell line rest = none := lookupCell_below (lo := x.1 + 1) (by omega) w.2
      by_cases ho : other = line
      · simp [eraseCell, hx, ho, hb]
      · simp [eraseCell, lookupCell, hx, ho, Ne.symm ho]
    · by_cases ho : other = line
      · have := ih w.2
        simp_all [eraseCell, lookupCell]
      · have := ih w.2
        simp_all [eraseCell, lookupCell]

theorem lookupCell_insertCell (line other : Nat) (y : LineContent) (l : List (Nat × LineContent)) :
    lookupCell other (insertCell line y l) = if other = line then some y else lookupCell other l := by
  induction l with
  | nil => simp [insertCell, lookupCell, eq_comm]
  | cons x rest ih =>
    simp only [insertCell]
    split
    · simp [lookupCell, eq_comm]
    · split
      · rename_i h
        subst h
        by_cases ho : other = x.1 <;> simp [lookupCell, ho, eq_comm]
      · rename_i h1 h2
        by_cases hx : x.1 = other
        · have : other ≠ line := by omega
          simp [lookupCell, hx, this]
        · simp [lookupCell, hx, ih]

theorem cellsRising_eraseCell {lo : Nat} (line : Nat) {l : List (Nat × LineContent)} (w : cellsRising lo l = true) :
    cellsRising lo (eraseCell line l) = true := by
  induction l generalizing lo with
  | nil => rfl
  | cons x rest ih =>
    simp only [cellsRising, Bool.and_eq_true, decide_eq_true_eq] at w
    simp only [eraseCell]
    split
    · exact cellsRising_weaken (by omega) w.2
    · simp [cellsRising, w.1, ih w.2]

theorem cellsRising_insertCell {lo line : Nat} (h : lo ≤ line) (y : LineContent) {l : List (Nat × LineContent)}
    (w : cellsRising lo l = true) : cellsRising lo (insertCell line y l) = true := by
  induction l generalizing lo with
  | nil => simp [insertCell, cellsRising, h]
  | cons x rest ih =>
    simp only [cellsRising, Bool.and_eq_true, decide_eq_true_eq] at w
    simp only [insertCell]
    split
    · simp only [cellsRising, Bool.and_eq_true, decide_eq_true_eq]
      exact ⟨h, by omega, w.2⟩
    · split
      · rename_i h2
        subst h2
        simp only [cellsRising, Bool.and_eq_true, decide_eq_true_eq]
        exact ⟨h, w.2⟩
      · simp only [cellsRising, Bool.and_eq_true, decide_eq_true_eq]
        exact ⟨w.1, ih (by omega) w.2⟩

theorem mem_eraseCell {line : Nat} {x : Nat × LineContent} {l : List (Nat × LineContent)} (h : x ∈ eraseCell line l) :
    x ∈ l := by
  induction l with
  | nil => exact h
  | cons y rest ih =>
    simp only [eraseCell] at h
    split at h
    · exact List.mem_cons_of_mem _ h
    · rcases List.mem_cons.mp h with h | h
      · exact h ▸ List.mem_cons_self ..
      · exact List.mem_cons_of_mem _ (ih h)

theorem mem_insertCell {line : Nat} {y : LineContent} {x : Nat × LineContent} {l : List (Nat × LineContent)}
    (h : x ∈ insertCell line y l) : x = (line, y) ∨ x ∈ l := by
  induction l with
  | nil => exact Or.inl (List.mem_singleton.mp h)
  | cons z rest ih =>
    simp only [insertCell] at h
    split at h
    · exact List.mem_cons.mp h
    · split at h
      · rcases List.mem_cons.mp h with h | h
        · exact Or.inl h
        · exact Or.inr (List.mem_cons_of_mem _ h)
      · rcases List.mem_cons.mp h with h | h
        · exact Or.inr (h ▸ List.mem_cons_self ..)
        · exact (ih h).imp_right (List.mem_cons_of_mem _)

/-! ## One line -/

theorem Memory.wf_iff (m : Memory) :
    m.wf = true ↔ cellsRising 0 m.cells = true ∧ ∀ x ∈ m.cells, x.2 ≠ m.background := by
  simp [Memory.wf, List.all_eq_true]

@[simp] theorem Memory.write_background (m : Memory) (line : Nat) (y : LineContent) :
    (m.write line y).background = m.background := by
  simp only [Memory.write]
  split <;> rfl

/-- Reading after a write: the line written holds what was written, every other line what it held. -/
theorem Memory.read_write {m : Memory} (w : m.wf = true) (line other : Nat) (y : LineContent) :
    (m.write line y).read other = if other = line then y else m.read other := by
  simp only [Memory.write]
  split
  · rename_i h
    simp only [Memory.read, lookupCell_eraseCell line other (m.wf_iff.mp w).1]
    split
    · simp [h]
    · rfl
  · simp only [Memory.read, lookupCell_insertCell]
    split <;> rfl

theorem Memory.read_write_self {m : Memory} (w : m.wf = true) (line : Nat) (y : LineContent) :
    (m.write line y).read line = y := by simp [Memory.read_write w]

theorem Memory.read_write_ne {m : Memory} (w : m.wf = true) {line other : Nat} (h : other ≠ line) (y : LineContent) :
    (m.write line y).read other = m.read other := by simp [Memory.read_write w, h]

/-! ## The canonical form is kept -/

theorem Memory.wf_write {m : Memory} (w : m.wf = true) (line : Nat) (y : LineContent) : (m.write line y).wf = true := by
  obtain ⟨r, b⟩ := m.wf_iff.mp w
  simp only [Memory.write]
  split
  · exact (Memory.wf_iff _).mpr ⟨cellsRising_eraseCell line r, fun x hx => b x (mem_eraseCell hx)⟩
  · rename_i h
    refine (Memory.wf_iff _).mpr ⟨cellsRising_insertCell (Nat.zero_le _) y r, fun x hx => ?_⟩
    rcases mem_insertCell hx with hx | hx
    · exact hx ▸ h
    · exact b x hx

theorem Memory.wf_afterRead {m : Memory} (w : m.wf = true) (line : Nat) (e : EccOutcome) :
    (m.afterRead line e).wf = true := by
  cases e <;> first | exact w | exact m.wf_write w line .poison

theorem Memory.wf_afterPartial {m : Memory} (w : m.wf = true) (line : Nat) (mask : ByteMask) (d : LineData)
    (e : EccOutcome) : (m.afterPartial line mask d e).wf = true := by
  cases e <;> exact m.wf_write w line _

theorem Memory.wf_performWrite {m : Memory} (w : m.wf = true) (line : Nat) (media : MediaResult) (a : OpAction) :
    (m.performWrite line media a).1.wf = true := by
  cases a with
  | writeFull d => exact m.wf_write w line _
  | writePartial mask d => exact m.wf_afterPartial w line mask d _
  | _ => exact w

theorem Memory.wf_cut {m : Memory} (w : m.wf = true) (n : Nat) (earlier l : List Operation) :
    (m.cut n earlier l).wf = true := by
  induction l generalizing m n earlier with
  | nil => exact w
  | cons op rest ih =>
    simp only [Memory.cut]
    apply ih
    split
    · exact m.wf_write w _ _
    · exact w

/-- A cut leaves alone every line that no operation of the queue names (R112, R113). -/
theorem Memory.read_cut {m : Memory} (w : m.wf = true) (n : Nat) (earlier l : List Operation) (line : Nat)
    (h : ∀ o ∈ l, o.line ≠ line) : (m.cut n earlier l).read line = m.read line := by
  induction l generalizing m n earlier with
  | nil => rfl
  | cons op rest ih =>
    simp only [List.forall_mem_cons] at h
    simp only [Memory.cut]
    split
    · rw [ih (m.wf_write w _ _) _ _ h.2, Memory.read_write_ne w (Ne.symm h.1)]
    · exact ih w _ _ h.2

theorem Memory.wf_filled (k : FillKind) : (Memory.filled k).wf = true := by cases k <;> rfl

theorem Memory.wf_undefinedContents : Memory.undefinedContents.wf = true := rfl

theorem Memory.read_filled (k : FillKind) (line : Nat) :
    (Memory.filled k).read line = if k = .zero then .data 0 else .poison := by cases k <;> rfl

/-- The state after reset holds its contents in canonical form. -/
theorem State.reset_memory_wf (c : ChannelId) : (State.reset.channel c).memory.wf = true := by
  revert c; decide

/-! ## Merging a partial write -/

theorem expandMask_bit (mask : ByteMask) (n k : Nat) (hn : n ≤ 64) :
    (expandMask mask n).getLsbD k = (decide (k / 8 < n) && mask.getLsbD (k / 8)) := by
  induction n with
  | zero => simp [expandMask]
  | succ n ih =>
    rw [expandMask, BitVec.getLsbD_or, ih (by omega)]
    have hff : ∀ j, (0xFF#512).getLsbD j = decide (j < 8) := by
      intro j
      rw [BitVec.getLsbD_ofNat, show (255 : Nat) = 2 ^ 8 - 1 from rfl, Nat.testBit_two_pow_sub_one]
      by_cases h : j < 8
      · simp [h, Nat.lt_trans h]
      · simp [h]
    by_cases hm : mask.getLsbD n = true
    · simp only [hm, if_true, BitVec.getLsbD_shiftLeft, hff]
      by_cases h1 : k / 8 < n
      · have : k < 8 * n := by omega
        simp [h1, this, Nat.lt_succ_of_lt h1]
      · by_cases h2 : k / 8 = n
        · have a1 : ¬ k < 8 * n := by omega
          have a2 : k < 512 := by omega
          have a3 : k - 8 * n < 8 := by omega
          simp [h2, a1, a2, a3, hm]
        · have a1 : ¬ k / 8 < n + 1 := by omega
          have a3 : ¬ k - 8 * n < 8 := by omega
          simp [h1, a1, a3]
    · by_cases h2 : k / 8 = n
      · simp [h2, hm]
      · have : (k / 8 < n + 1) ↔ (k / 8 < n) := by omega
        simp [hm, this]

/-- R104: each byte whose mask bit is set is the write's, each other byte the old one. -/
theorem mergeLine_byte (mask : ByteMask) (new old : LineData) (i : Nat) (hi : i < 64) :
    (mergeLine mask new old).extractLsb' (8 * i) 8 =
      if mask.getLsbD i then new.extractLsb' (8 * i) 8 else old.extractLsb' (8 * i) 8 := by
  apply BitVec.eq_of_getLsbD_eq
  intro j hj
  have h1 : (8 * i + j) / 8 = i := by omega
  have h2 : 8 * i + j < 512 := by omega
  have h3 := expandMask_bit mask 64 (8 * i + j) (by omega)
  rw [h1, BitVec.getLsbD_eq_getElem h2] at h3
  by_cases hm : mask.getLsbD i = true
  · have hm' : mask[i] = true := by rwa [BitVec.getLsbD_eq_getElem hi] at hm
    simp [mergeLine, BitVec.getLsbD_extractLsb', h2, h3, hm', hi]
  · simp [mergeLine, BitVec.getLsbD_extractLsb', h2, h3, hm]

end Sys2Proof.Machine
end

