-- ==== Sys2Proof/Laws/Channels.lean ====
section
/-! SUPPORT. The operation a channel completes, and what the abort of a work queue touches. -/

namespace Sys2Proof.Machine

/-! ## Performed operations -/

/-- The first operation with a property can be performed when no earlier one stands on its line and it is no empty
placeholder (R97). -/
theorem findPerformable_split {f : Operation → Bool} {q1 q2 : List Operation} {op : Operation} (hf : f op = true)
    (h1 : ∀ o ∈ q1, f o = false) (acc : List Operation) (hp : inProgress (acc ++ q1) op = true) :
    findPerformable f acc (q1 ++ op :: q2) = some op := by
  induction q1 generalizing acc with
  | nil =>
    simp only [List.append_nil] at hp
    simp [findPerformable, hf, hp]
  | cons o rest ih =>
    simp only [List.forall_mem_cons] at h1
    simp only [List.cons_append, findPerformable, h1.1]
    exact ih h1.2 _ (by simpa using hp)

theorem Channel.completable_split {x : Channel} {f : Operation → Bool} {q1 q2 : List Operation} {op : Operation}
    (hs : x.state = .online) (hq : x.queue = q1 ++ op :: q2) (hf : f op = true) (h1 : ∀ o ∈ q1, f o = false)
    (hl : ∀ o ∈ q1, o.line ≠ op.line) (hp : op.action ≠ .copyWrite none) : x.completable f = some op := by
  simp only [Channel.completable, hs, if_true, hq]
  refine findPerformable_split hf h1 [] ?_
  have hall : q1.all (fun o => decide (o.line ≠ op.line)) = true := by simpa using hl
  simp only [inProgress, List.nil_append, hall, Bool.true_and]

theorem Channel.remove_split {x : Channel} {f : Operation → Bool} {q1 q2 : List Operation} {op : Operation}
    (hq : x.queue = q1 ++ op :: q2) (hf : f op = true) (h1 : ∀ o ∈ q1, f o = false) :
    x.remove f = { x with queue := q1 ++ q2 } := by
  have : (q1 ++ op :: q2).eraseP f = q1 ++ q2 := by
    rw [List.eraseP_append_right _ (fun b hb => by simp [h1 b hb])]
    simp [hf]
  simp [Channel.remove, hq, this]

/-- What completes is in the queue. -/
theorem findPerformable_mem {f : Operation → Bool} {acc q : List Operation} {op : Operation}
    (h : findPerformable f acc q = some op) : op ∈ q ∧ f op = true := by
  induction q generalizing acc with
  | nil => simp [findPerformable] at h
  | cons o rest ih =>
    simp only [findPerformable] at h
    split at h
    · next k =>
      split at h
      · simp only [Option.some.injEq] at h
        exact ⟨h ▸ List.mem_cons_self .., h ▸ k⟩
      · simp at h
    · exact (ih h).imp_left (List.mem_cons_of_mem _)

/-! ## Aborted queues -/

/-- Channels that differ at most in what their work queues carry: same length, places, lines and origins. -/
def sameButSupply (a b : Channel) : Prop :=
  a = { b with queue := a.queue } ∧
    a.queue.map (fun o => (o.line, o.origin, o.part, o.slot)) = b.queue.map (fun o => (o.line, o.origin, o.part, o.slot))

theorem sameButSupply_refl (a : Channel) : sameButSupply a a := ⟨rfl, rfl⟩

theorem sameButSupply_trans {a b c : Channel} (h : sameButSupply a b) (k : sameButSupply b c) : sameButSupply a c := by
  refine ⟨?_, h.2.trans k.2⟩
  have h1 := h.1
  rw [k.1] at h1
  exact h1

theorem supplyQueue_same (n : PairNumber) (content : LineContent) (q : List Operation) :
    (supplyQueue n content q).map (fun o => (o.line, o.origin, o.part, o.slot)) =
      q.map (fun o => (o.line, o.origin, o.part, o.slot)) := by
  simp only [supplyQueue, List.map_map]
  apply List.map_congr_left
  intro o _
  simp only [Function.comp]
  split <;> rfl

theorem State.supply_channel (s : State) (c d : ChannelId) (n : PairNumber) (content : LineContent) :
    sameButSupply ((s.supply c n content).channel d) (s.channel d) := by
  simp only [State.supply, State.setChannel_channel]
  split
  · next h => subst h; exact ⟨rfl, supplyQueue_same n content _⟩
  · exact sameButSupply_refl _

theorem State.supplyAll_frame (l : List PairRecord) (s : State) :
    ∃ channels, l.foldl (fun s x => s.supply x.dst.channel x.number .poison) s = { s with channels := channels } ∧
      ∀ d : ChannelId, sameButSupply channels[d] (s.channel d) := by
  induction l generalizing s with
  | nil => exact ⟨_, rfl, fun _ => sameButSupply_refl _⟩
  | cons x rest ih =>
    obtain ⟨channels, h, k⟩ := ih (s.supply x.dst.channel x.number .poison)
    refine ⟨channels, by rw [List.foldl_cons, h]; rfl, fun d => ?_⟩
    exact sameButSupply_trans (k d) (s.supply_channel x.dst.channel d x.number .poison)

/-- The Copy Engine's part of an abort: its record, and placeholders supplied (R152). -/
theorem State.copyOnAbort_frame (s : State) (c : ChannelId) :
    ∃ channels copyEngine, s.copyOnAbort c = { s with channels := channels, copyEngine := copyEngine } ∧
      ∀ d : ChannelId, sameButSupply channels[d] (s.channel d) := by
  unfold State.copyOnAbort
  split
  · obtain ⟨channels, h, k⟩ := State.supplyAll_frame _ _
    exact ⟨channels, _, h, k⟩
  · exact ⟨_, _, rfl, fun _ => sameButSupply_refl _⟩

/-- The abort of a work queue: empty afterwards, the lines cut, every entry at its fate, the other channel's placeholders
supplied at most (R107). -/
theorem State.abortQueue_frame (s : State) (c : ChannelId) :
    ∃ ports trackers channels copyEngine fresh, s.abortQueue c =
        { s with ports := ports, trackers := trackers, channels := channels, copyEngine := copyEngine, fresh := fresh } ∧
      quietSame ports s.ports ∧
      (∀ p : PortId, trackers[p] = keptEntries (Entry.onOperationAbort c) (s.tracker p)) ∧
      channels[c] = { s.channel c with queue := [], memory := (s.channel c).memory.cut s.fresh [] (s.channel c).queue } ∧
      ∀ d : ChannelId, d ≠ c → sameButSupply channels[d] (s.channel d) := by
  let x := s.channel c
  let t : State := { s.setChannel c { x with queue := [], memory := x.memory.cut s.fresh [] x.queue } with
    fresh := s.fresh + x.queue.length }
  have ht : s.abortQueue c = (t.applyFatesAll (Entry.onOperationAbort c)).copyOnAbort c := rfl
  obtain ⟨ports, trackers, h, q⟩ := t.applyFatesAll_frame (Entry.onOperationAbort c)
  have tr := t.applyFatesAll_tracker (Entry.onOperationAbort c)
  obtain ⟨channels, copyEngine, k, a⟩ := (t.applyFatesAll (Entry.onOperationAbort c)).copyOnAbort_frame c
  rw [h] at k a tr
  refine ⟨ports, trackers, channels, copyEngine, t.fresh, by rw [ht, h, k]; rfl, q, fun p => tr p, ?_, fun d hd => ?_⟩
  · have hc : ({ t with ports := ports, trackers := trackers } : State).channel c =
        { x with queue := [], memory := x.memory.cut s.fresh [] x.queue } := State.setChannel_channel_self s c _
    obtain ⟨a1, a2⟩ := a c
    rw [hc] at a1 a2
    simp only [List.map_nil, List.map_eq_nil_iff] at a2
    rw [a1, a2]
  · have hc : ({ t with ports := ports, trackers := trackers } : State).channel d = s.channel d :=
      State.setChannel_channel_ne s c _ d hd
    have := a d
    rwa [hc] at this

/-! ## Modules (R91) -/

/-- No module holds a segment at or above the sum of the sizes. -/
theorem moduleOf_none (l : List (Option Nat)) (segment slot : Nat)
    (h : (l.map (fun sl => sl.getD 0)).sum ≤ segment) : moduleOf segment slot l = none := by
  induction l generalizing segment slot with
  | nil => rfl
  | cons sl rest ih =>
    simp only [List.map_cons, List.sum_cons] at h
    have below : ¬ segment < sl.getD 0 := by omega
    simp only [moduleOf, if_neg below]
    exact ih _ _ (by omega)

/-- The module of a slot holds the segments that follow those of the slots before it. -/
theorem moduleOf_some (l : List (Option Nat)) (segment slot i size place : Nat) (h : l[i]? = some (some size))
    (k : place < size) (hseg : segment = ((l.take i).map (fun sl => sl.getD 0)).sum + place) :
    moduleOf segment slot l = some (slot + i, place) := by
  induction l generalizing segment slot i with
  | nil => simp at h
  | cons sl rest ih =>
    cases i with
    | zero =>
      simp only [List.getElem?_cons_zero, Option.some.injEq] at h
      subst h
      simp only [List.take_zero, List.map_nil, List.sum_nil, Nat.zero_add] at hseg
      simp [moduleOf, hseg, k]
    | succ j =>
      simp only [List.getElem?_cons_succ] at h
      simp only [List.take_succ_cons, List.map_cons, List.sum_cons] at hseg
      have below : ¬ segment < sl.getD 0 := by omega
      simp only [moduleOf, if_neg below]
      rw [ih (segment - sl.getD 0) (slot + 1) j h (by omega)]
      simp only [Option.some.injEq, Prod.mk.injEq, and_true]
      omega

end Sys2Proof.Machine
end

