-- ==== Sys2Proof/Laws/Checks.lean ====
section
/-! SUPPORT. What the validation checks of Table 38 read, in the words of the manual. -/

namespace Sys2Proof.Machine

theorem mem_allPorts (p : PortId) : p ∈ allPorts := by revert p; decide

theorem mem_allExtents (x : ExtentId) : x ∈ allExtents := by simp [allExtents]

/-- Two ranges share a member when some number lies in both. -/
theorem rangesShare_iff (a la b lb : Nat) :
    rangesShare a la b lb = true ↔ ∃ n, b ≤ n ∧ n < b + lb ∧ a ≤ n ∧ n < a + la := by
  simp only [rangesShare, Bool.and_eq_true, decide_eq_true_eq]
  constructor
  · rintro ⟨⟨⟨h1, h2⟩, h3⟩, h4⟩
    exact ⟨max a b, by omega, by omega, by omega, by omega⟩
  · rintro ⟨n, h1, h2, h3, h4⟩
    omega

theorem State.overlapsPool_iff (s : State) (base length : Nat) :
    s.overlapsPool base length = true ↔ s.occupied base length := by
  simp only [State.overlapsPool, Bool.or_eq_true, List.any_eq_true, State.occupied]
  constructor
  · rintro (⟨x, _, h⟩ | h)
    · cases hb : (s.extent x).body? with
      | none => simp [hb] at h
      | some b =>
        simp only [hb, rangesShare_iff] at h
        obtain ⟨n, h1, h2, h3, h4⟩ := h
        exact ⟨n, h1, h2, .inl ⟨x, b, hb, h3, h4⟩⟩
    · split at h
      · next r hr =>
        rw [rangesShare_iff] at h
        obtain ⟨n, h1, h2, h3, h4⟩ := h
        exact ⟨n, h1, h2, .inr ⟨r, hr, h3, h4⟩⟩
      · cases h
  · rintro ⟨n, h1, h2, ⟨x, b, hb, h3, h4⟩ | ⟨r, hr, h3, h4⟩⟩
    · exact .inl ⟨x, mem_allExtents x, by simp only [hb, rangesShare_iff]; exact ⟨n, h1, h2, h3, h4⟩⟩
    · right
      simp only [hr, rangesShare_iff]
      exact ⟨n, h1, h2, h3, h4⟩

theorem State.onFaulted_iff (s : State) (base length : Nat) :
    s.onFaulted base length = true ↔ s.faultedUnder base length := by
  have hc : ∀ c : ChannelId, c ∈ ([0, 1] : List ChannelId) := by decide
  simp only [State.onFaulted, List.any_eq_true, State.faultedUnder, Bool.and_eq_true, decide_eq_true_eq, Layout.rangeOn]
  constructor
  · rintro ⟨c, _, h, i, hi, k⟩
    exact ⟨base + i, by omega, by have := List.mem_range.mp hi; omega, c, h, k⟩
  · rintro ⟨n, h1, h2, c, h, k⟩
    exact ⟨c, hc c, h, n - base, List.mem_range.mpr (by omega), by rw [show base + (n - base) = n by omega]; exact k⟩

theorem State.overlapsWindow_iff (s : State) (x : ExtentId) (p : PortId) (wb length : Nat) :
    s.overlapsWindow x p wb length = true ↔ s.windowTaken x p wb length := by
  simp only [State.overlapsWindow, List.any_eq_true, State.windowTaken, Bool.and_eq_true, decide_eq_true_eq,
    State.mappingOf, State.lengthOf]
  constructor
  · rintro ⟨y, _, hy, h⟩
    cases hb : (s.extent y).body? with
    | none => simp [hb] at h
    | some b =>
      simp only [hb] at h
      cases hm : b.mapping[p] with
      | none => simp [hm] at h
      | some m =>
        simp only [hm, rangesShare_iff] at h
        obtain ⟨n, h1, h2, h3, h4⟩ := h
        exact ⟨n, h1, h2, y, hy, b, m, hb, hm, h3, h4⟩
  · rintro ⟨n, h1, h2, y, hy, b, m, hb, hm, h3, h4⟩
    exact ⟨y, mem_allExtents y, hy, by simp only [hb, hm, rangesShare_iff]; exact ⟨n, h1, h2, h3, h4⟩⟩

/-! ## The windows (R6) -/

/-- A window range is taken by the same mappings in two states with the same records. -/
theorem State.windowTaken_congr {s t : State} (h : ∀ y : ExtentId, (t.extent y).body? = (s.extent y).body?) (x : ExtentId)
    (p : PortId) (wb length : Nat) : t.windowTaken x p wb length ↔ s.windowTaken x p wb length := by
  simp only [State.windowTaken, h]

/-- The windows of a record fit in the same way in two states with the same records and window sizes. -/
theorem State.windowFits_congr {s t : State} (h : ∀ y : ExtentId, (t.extent y).body? = (s.extent y).body?)
    (k : ∀ p : PortId, (t.port p).windowSize = (s.port p).windowSize) (x : ExtentId) (b : ExtentBody) :
    t.windowFits x b ↔ s.windowFits x b := by
  simp only [State.windowFits, State.windowTaken_congr h, k]

/-- A record without one of its mappings fits where the record fits. -/
theorem State.windowFits_setMapping_none {s : State} {x : ExtentId} {b : ExtentBody} (h : s.windowFits x b) (p : PortId) :
    s.windowFits x (b.setMapping p none) := by
  intro q m hm
  by_cases e : q = p
  · subst e; simp [ExtentBody.setMapping] at hm
  · have hv : p.val ≠ q.val := fun hv => e (Fin.ext hv.symm)
    refine h q m ?_
    simpa [ExtentBody.setMapping, Vector.getElem_set, hv] using hm

/-- A record with a mapping that passes WINDOW_SIZE and OVERLAP_WINDOW fits. -/
theorem State.windowFits_setMapping_some {s : State} {x : ExtentId} {b : ExtentBody} (h : s.windowFits x b) {p : PortId}
    {m : Mapping} (size : m.windowBase + b.length ≤ (s.port p).windowSize)
    (free : ¬ s.windowTaken x p m.windowBase b.length) : s.windowFits x (b.setMapping p (some m)) := by
  intro q n hn
  by_cases e : q = p
  · subst e
    have : m = n := by simpa [ExtentBody.setMapping] using hn
    subst this; exact ⟨size, free⟩
  · have hv : p.val ≠ q.val := fun hv => e (Fin.ext hv.symm)
    refine h q n ?_
    simpa [ExtentBody.setMapping, Vector.getElem_set, hv] using hn

/-- New rights of a mapping leave the windows as they were. -/
theorem State.windowFits_setRights {s : State} {x : ExtentId} {b : ExtentBody} (h : s.windowFits x b) (p : PortId)
    (r : Rights) : s.windowFits x (b.setRights p r) := by
  cases e : b.mapping[p] with
  | none => simpa [ExtentBody.setRights, e] using State.windowFits_setMapping_none h p
  | some m =>
    obtain ⟨h1, h2⟩ := h p m e
    simpa [ExtentBody.setRights, e] using State.windowFits_setMapping_some (m := { m with rights := r }) h h1 h2

/-- Two members of a filtered list of ports are two ports. -/
theorem one_lt_filter_ports (f : PortId → Bool) :
    1 < (allPorts.filter f).length ↔ ∃ p q : PortId, p ≠ q ∧ f p = true ∧ f q = true := by
  have key : ∀ a b c d : Bool,
      1 < (allPorts.filter (fun p : PortId => #v[a, b, c, d][p])).length ↔
        ∃ p q : PortId, p ≠ q ∧ #v[a, b, c, d][p] = true ∧ #v[a, b, c, d][q] = true := by decide
  have hf : f = fun p : PortId => #v[f 0, f 1, f 2, f 3][p] := by
    funext p
    have hp : p = 0 ∨ p = 1 ∨ p = 2 ∨ p = 3 := by revert p; decide
    rcases hp with rfl | rfl | rfl | rfl <;> rfl
  rw [hf]
  exact key (f 0) (f 1) (f 2) (f 3)

theorem ExtentBody.shareLaw_eq_false_iff (b : ExtentBody) :
    b.shareLaw = false ↔ b.share = .exclusive ∧ twoWriters b.mapping := by
  have writes : ∀ p : PortId,
      (match b.mapping[p] with | none => false | some m => decide (m.rights = .readWrite)) = true ↔
        ∃ m, b.mapping[p] = some m ∧ m.rights = .readWrite := by
    intro p
    cases b.mapping[p] <;> simp
  have two : 1 < b.writers ↔ twoWriters b.mapping := by
    rw [ExtentBody.writers, one_lt_filter_ports]
    constructor
    · rintro ⟨p, q, h, h1, h2⟩
      obtain ⟨m, a, c⟩ := (writes p).mp h1
      obtain ⟨n, a', c'⟩ := (writes q).mp h2
      exact ⟨p, q, h, m, n, a, a', c, c'⟩
    · rintro ⟨p, q, h, m, n, a, a', c, c'⟩
      exact ⟨p, q, h, (writes p).mpr ⟨m, a, c⟩, (writes q).mpr ⟨n, a', c'⟩⟩
  simp only [ExtentBody.shareLaw, Bool.or_eq_false_iff, decide_eq_false_iff_not, Nat.not_le, two]
  cases b.share <;> simp

/-- A check list whose tests say the conditions, one by one, decides as they do. -/
theorem decides_firstFailure_cons {fails : Bool} {condition : Prop} {reason : RejectReason}
    {checks : List (Bool × RejectReason)} {conditions : List (Prop × RejectReason)} (h : fails = true ↔ condition)
    (k : decides conditions (firstFailure checks)) :
    decides ((condition, reason) :: conditions) (firstFailure ((fails, reason) :: checks)) := by
  simp only [decides, firstFailure]
  exact ⟨fun c => if_pos (h.mpr c), fun c => by rw [if_neg (fun f => c (h.mp f))]; exact k⟩

theorem decides_firstFailure_nil : decides [] (firstFailure []) := rfl

end Sys2Proof.Machine
end

