-- ==== Sys2Proof/Laws/Layout.lean ====
section
/-! SUPPORT. What the layout's decoder finds: the range of a pool segment (R32, R34) and of a channel-local line (R35), over
the words of Safety.lean. -/

namespace Sys2Proof.Machine

/-! ## The list of ranges with their lower bounds -/

theorem withLower_getElem? (l : List LayoutRange) (lower i : Nat) :
    (withLower lower l)[i]? =
      l[i]?.map (fun r => (match i with | 0 => lower | j + 1 => (l[j]?.map (·.limit)).getD 0, r)) := by
  induction l generalizing lower i with
  | nil => simp [withLower]
  | cons x rest ih =>
    cases i with
    | zero => simp [withLower]
    | succ j => cases j <;> simp [withLower, ih]

theorem withLower_zero (l : List LayoutRange) (i : Nat) :
    (withLower 0 l)[i]? = l[i]?.map (fun r => (rangeLower l i, r)) := by
  rw [withLower_getElem?]; cases i <;> rfl

/-- The first range that meets a condition. -/
theorem withLower_find {l : List LayoutRange} {f : Nat × LayoutRange → Bool} {i : Nat} {r : LayoutRange}
    (h : l[i]? = some r) (hf : f (rangeLower l i, r) = true)
    (before : ∀ j, j < i → ∀ r', l[j]? = some r' → f (rangeLower l j, r') = false) :
    (withLower 0 l).find? f = some (rangeLower l i, r) := by
  have hi : (withLower 0 l)[i]? = some (rangeLower l i, r) := by rw [withLower_zero, h]; rfl
  obtain ⟨hlt, hget⟩ := List.getElem?_eq_some_iff.mp hi
  rw [List.find?_eq_some_iff_getElem]
  refine ⟨hf, i, hlt, hget, fun j hj => ?_⟩
  have hj' : j < (withLower 0 l).length := Nat.lt_trans hj hlt
  have e := withLower_zero l j
  rw [List.getElem?_eq_getElem hj'] at e
  cases hr : l[j]? with
  | none => simp [hr] at e
  | some r' =>
    rw [hr, Option.map_some] at e
    rw [Option.some.inj e, before j hj r' hr]; rfl

/-- No range meets a condition. -/
theorem withLower_find_none {l : List LayoutRange} {f : Nat × LayoutRange → Bool}
    (h : ∀ i r, l[i]? = some r → f (rangeLower l i, r) = false) : (withLower 0 l).find? f = none := by
  rw [List.find?_eq_none]
  intro y hy
  obtain ⟨i, hi⟩ := List.mem_iff_getElem?.mp hy
  rw [withLower_zero] at hi
  cases hr : l[i]? with
  | none => simp [hr] at hi
  | some r =>
    rw [hr, Option.map_some] at hi
    rw [← Option.some.inj hi, h i r hr]; simp

/-! ## Pool segments -/

theorem rangeLower_succ {l : List LayoutRange} {j : Nat} {r : LayoutRange} (h : l[j]? = some r) :
    rangeLower l (j + 1) = r.limit := by simp [rangeLower, h]

/-- In rising ranges an earlier range ends at or below the lower bound of a later one. -/
theorem limit_le_lower {l : List LayoutRange} (hl : limitsRise l l.length) {i : Nat} {r : LayoutRange} (hi : l[i]? = some r) :
    ∀ j, j < i → ∀ r', l[j]? = some r' → r'.limit ≤ rangeLower l i := by
  induction i generalizing r with
  | zero => intro j hj; exact absurd hj (Nat.not_lt_zero _)
  | succ n ih =>
    intro j hj r' hr'
    have hn : n < l.length := Nat.lt_of_succ_lt (List.getElem?_eq_some_iff.mp hi).1
    have hx : l[n]? = some l[n] := List.getElem?_eq_getElem hn
    rw [rangeLower_succ hx]
    rcases Nat.lt_succ_iff_lt_or_eq.mp hj with hlt | rfl
    · exact Nat.le_of_lt (Nat.lt_of_le_of_lt (ih hx j hlt r' hr') (hl n hn _ hx))
    · rw [hx] at hr'; exact Nat.le_of_eq (congrArg LayoutRange.limit (Option.some.inj hr').symm)

/-- The range that holds a pool segment is the one that the decoder finds. -/
theorem rangeOfSegment_holds {l : List LayoutRange} (hl : limitsRise l l.length) {i : Nat} {r : LayoutRange} {seg : Nat}
    (h : holdsSegment l i r seg) : rangeOfSegment l seg = some (rangeLower l i, r) := by
  obtain ⟨hi, h1, h2⟩ := h
  refine withLower_find hi (by simp [h1, h2]) fun j hj r' hr' => ?_
  have := limit_le_lower hl hi j hj r' hr'
  simp; omega

/-! ## Channel-local segments -/

theorem rangeShare_eq_takes {l : List LayoutRange} {c : ChannelId} {i : Nat} {r : LayoutRange} (h : l[i]? = some r)
    (hn : r.mode.names c = true) : rangeShare (rangeLower l i) r = rangeTakes l c i := by
  have hc : c = 0 ∨ c = 1 := by clear hn; revert c; decide
  rcases hc with rfl | rfl <;> cases hm : r.mode <;> simp_all [rangeTakes, rangeShare, RangeMode.names]

theorem channelTotal_succ (l : List LayoutRange) (c : ChannelId) (n : Nat) :
    channelTotal l c (n + 1) = channelTotal l c n + rangeTakes l c n := by
  simp [channelTotal, List.range_succ]

theorem channelTotal_mono (l : List LayoutRange) (c : ChannelId) {j i : Nat} (h : j ≤ i) :
    channelTotal l c j ≤ channelTotal l c i := by
  induction h with
  | refl => exact Nat.le_refl _
  | step _ ih => exact Nat.le_trans ih (by rw [channelTotal_succ]; exact Nat.le_add_right _ _)

/-- What a range takes depends on its limit, its mode and the limit before it, not on its starts (R28). -/
theorem rangeTakes_congr {a b : List LayoutRange} (h : a.map (fun r => (r.limit, r.mode)) = b.map (fun r => (r.limit, r.mode)))
    (c : ChannelId) (i : Nat) : rangeTakes a c i = rangeTakes b c i := by
  have key : ∀ n : Nat, a[n]?.map (fun r => (r.limit, r.mode)) = b[n]?.map (fun r => (r.limit, r.mode)) := fun n => by
    rw [← List.getElem?_map, ← List.getElem?_map, h]
  have lower : rangeLower a i = rangeLower b i := by
    cases i with
    | zero => rfl
    | succ j =>
      have := key j
      cases ha : a[j]? <;> cases hb : b[j]? <;> simp_all [rangeLower]
  have := key i
  cases ha : a[i]? <;> cases hb : b[i]? <;> simp_all [rangeTakes]

theorem channelTotal_congr {a b : List LayoutRange}
    (h : a.map (fun r => (r.limit, r.mode)) = b.map (fun r => (r.limit, r.mode))) (c : ChannelId) (n : Nat) :
    channelTotal a c n = channelTotal b c n := by
  simp only [channelTotal]
  congr 1
  exact List.map_congr_left fun i _ => rangeTakes_congr h c i

/-- Under the starts of a commit, a range has a start on a channel exactly when it names it, the running total. -/
theorem start_of_totals {l : List LayoutRange} (h : startsAreTotals l) {i : Nat} {r : LayoutRange} (hi : l[i]? = some r)
    (c : ChannelId) : r.start c = if r.mode.names c then some (channelTotal l c i) else none := by
  obtain ⟨h0, h1⟩ := h i r hi
  have hc : c = 0 ∨ c = 1 := by revert c; decide
  rcases hc with rfl | rfl <;> cases hm : r.mode <;> simp_all [LayoutRange.start, RangeMode.names]

theorem start_eq_some_iff {r : LayoutRange} {c : ChannelId} {start : Nat} :
    ((c = 0 ∧ r.ch0Start = some start) ∨ (c = 1 ∧ r.ch1Start = some start)) ↔ r.start c = some start := by
  have hc : c = 0 ∨ c = 1 := by revert c; decide
  rcases hc with rfl | rfl <;> simp [LayoutRange.start]

/-- The range whose share of a channel covers a channel-local segment is the one that the reverse decoding finds. -/
theorem segmentIn_covers {l : List LayoutRange} {c : ChannelId} (ht : startsAreTotals l) {i : Nat} {r : LayoutRange}
    {start line : Nat} (h : coversLocal l c i r start (line / 4194304)) :
    segmentIn l c line = some (
      if r.mode = .both then
        rangeLower l i + ((2 * ((line - start * 4194304) / 8) + (if c = 0 then 0 else 1)) * 512 +
          (line - start * 4194304) % 8 * 64) / 268435456
      else rangeLower l i + (line / 4194304 - start)) := by
  obtain ⟨hi, hs, h1, h2⟩ := h
  rw [start_eq_some_iff] at hs
  have hn : r.mode.names c = true := by
    cases hx : r.mode.names c with
    | true => rfl
    | false => rw [start_of_totals ht hi, hx] at hs; cases hs
  have hst : start = channelTotal l c i := by
    rw [start_of_totals ht hi, hn] at hs; exact (Option.some.inj hs).symm
  have hf : (withLower 0 l).find? (coversOn c (line / 4194304)) = some (rangeLower l i, r) := by
    refine withLower_find hi ?_ fun j hj r' hr' => ?_
    · simp only [coversOn, hs, rangeShare_eq_takes hi hn]
      simpa using ⟨h1, h2⟩
    · simp only [coversOn, start_of_totals ht hr']
      cases hx : r'.mode.names c with
      | false => rfl
      | true =>
        have h3 := channelTotal_mono l c (Nat.succ_le_of_lt hj)
        rw [channelTotal_succ] at h3
        simp only [if_true, rangeShare_eq_takes hr' hx]
        simp; omega
  simp only [segmentIn, Config.segmentLines, hf, hs]
  cases hm : r.mode <;> simp [Config.blockBytes, Config.lineBytes, Config.segmentBytes]

/-- Where no range covers a line, the reverse decoding has no answer. -/
theorem segmentIn_none {l : List LayoutRange} {c : ChannelId} (ht : startsAreTotals l) {line : Nat}
    (h : ∀ i r start, ¬ coversLocal l c i r start (line / 4194304)) : segmentIn l c line = none := by
  have hf : (withLower 0 l).find? (coversOn c (line / 4194304)) = none := by
    refine withLower_find_none fun i r hi => ?_
    simp only [coversOn, start_of_totals ht hi]
    cases hx : r.mode.names c with
    | false => rfl
    | true =>
      have hs := start_of_totals ht hi c
      rw [hx, if_pos rfl] at hs
      have hn : ¬ (channelTotal l c i ≤ line / 4194304 ∧ line / 4194304 < channelTotal l c i + rangeTakes l c i) :=
        fun k => h i r _ ⟨hi, start_eq_some_iff.mpr hs, k.1, k.2⟩
      simp only [if_true, rangeShare_eq_takes hi hx]
      simp; omega
  simp only [segmentIn, Config.segmentLines, hf]

end Sys2Proof.Machine
end

