-- ==== Sys2Proof/Laws/Notices.lean ====
section
/-! SUPPORT. What each port makes of the notices of a step, in the words of the statements: every operation that offers
notices or posts a record hands them over as `State.sendsNotices` says. -/

namespace Sys2Proof.Machine

/-! ## One queue -/

theorem NoticeQueue.takes_append (q : NoticeQueue) (a b : List NoticeBody) :
    q.takes (a ++ b) = (((q.takes a).1.takes b).1, (q.takes a).2 ++ ((q.takes a).1.takes b).2) := by
  induction a generalizing q with
  | nil => rfl
  | cons x rest ih =>
    simp only [List.cons_append, NoticeQueue.takes]
    split
    · simp only [ih, List.cons_append]
    · rw [ih]

theorem noticesTo_append (p : PortId) (a b : List (PortId × NoticeBody)) :
    noticesTo p (a ++ b) = noticesTo p a ++ noticesTo p b := by simp [noticesTo]

/-! ## Offers -/

/-- Every port has taken a list of offered notices: an OPEN one by its queue, any other not at all. -/
def State.offered (s t : State) (l : List (PortId × NoticeBody)) : Prop :=
  ∀ p : PortId, (t.port p).state = (s.port p).state ∧
    ((s.port p).state ≠ .opened → t.noticeQueue p = s.noticeQueue p ∧ (t.port p).outbox = (s.port p).outbox) ∧
    ((s.port p).state = .opened →
      t.noticeQueue p = ((s.noticeQueue p).takes (noticesTo p l)).1 ∧
      (t.port p).outbox = (s.port p).outbox ++ ((s.noticeQueue p).takes (noticesTo p l)).2.map .notice)

/-- Two states whose ports, notice queues and holder agree offer and send alike. -/
def State.sameNoticeSide (s t : State) : Prop :=
  t.ports = s.ports ∧ t.noticeQueues = s.noticeQueues ∧ t.holder = s.holder

theorem State.offered_of_same {s t : State} (h : s.ports = t.ports) (k : s.noticeQueues = t.noticeQueues) :
    s.offered t [] := by
  intro p
  have hp : t.port p = s.port p := by simp only [State.port, h]
  have hq : t.noticeQueue p = s.noticeQueue p := by simp only [State.noticeQueue, k]
  rw [hp, hq]
  exact ⟨rfl, fun _ => ⟨rfl, rfl⟩, fun _ => ⟨rfl, by simp [noticesTo, NoticeQueue.takes]⟩⟩

theorem State.offered_trans {s t u : State} {a b : List (PortId × NoticeBody)} (h : s.offered t a) (k : t.offered u b) :
    s.offered u (a ++ b) := by
  intro p
  obtain ⟨h1, h2, h3⟩ := h p
  obtain ⟨k1, k2, k3⟩ := k p
  rw [h1] at k2 k3
  refine ⟨k1.trans h1, fun hp => ?_, fun hp => ?_⟩
  · exact ⟨(k2 hp).1.trans (h2 hp).1, (k2 hp).2.trans (h2 hp).2⟩
  · rw [noticesTo_append, NoticeQueue.takes_append, (k3 hp).1, (k3 hp).2, (h3 hp).1, (h3 hp).2]
    exact ⟨rfl, by simp⟩

/-- A notice that is not PENDING is taken by its port (R167). -/
theorem State.offerNotice_offered (s : State) (p : PortId) (body : NoticeBody) (h : body.isPending = false) :
    s.offered (s.offerNotice p body) [(p, body)] := by
  intro q
  by_cases ho : (s.port p).state = .opened
  · by_cases hl : (s.noticeQueue p).notices.length < 8
    · rw [State.offerNotice_room ho hl]
      by_cases hq : q = p
      · subst hq
        simp [ho, hl, noticesTo, NoticeQueue.takes, NoticeQueue.enter, NoticeQueue.stamp]
      · have hn : noticesTo q [(p, body)] = [] := by simp [noticesTo, Ne.symm hq]
        simp [hq, hn, NoticeQueue.takes]
    · have he : s.offerNotice p body =
          s.setNoticeQueue p { s.noticeQueue p with lost := satIncr 255 (s.noticeQueue p).lost } := by
        simp [State.offerNotice, ho, hl, h, Config.noticeQueueSize]
      rw [he]
      by_cases hq : q = p
      · subst hq
        simp [ho, hl, noticesTo, NoticeQueue.takes]
      · have hn : noticesTo q [(p, body)] = [] := by simp [noticesTo, Ne.symm hq]
        simp [hq, hn, NoticeQueue.takes]
  · have he : s.offerNotice p body = s := by simp [State.offerNotice, ho]
    rw [he]
    by_cases hq : q = p
    · subst hq
      simp [ho]
    · have hn : noticesTo q [(p, body)] = [] := by simp [noticesTo, Ne.symm hq]
      simp [hn, NoticeQueue.takes]

theorem State.offerNotices_offered (l : List (PortId × NoticeBody)) (s : State)
    (h : ∀ x ∈ l, x.2.isPending = false) : s.offered (s.offerNotices l) l := by
  induction l generalizing s with
  | nil => exact State.offered_of_same rfl rfl
  | cons x rest ih =>
    exact State.offered_trans (s.offerNotice_offered x.1 x.2 (h x (List.mem_cons_self ..)))
      (ih _ (fun y hy => h y (List.mem_cons_of_mem _ hy)))

/-- The COMPLETION_POSTED of a record as an addressed notice. -/
def State.posted (s : State) (r : CompletionRecord) : List (PortId × NoticeBody) :=
  match s.holder with
  | .port p => [(p, r.postedNotice)]
  | _ => []

theorem State.noticesTo_posted (s : State) (r : CompletionRecord) (p : PortId) :
    noticesTo p (s.posted r) = s.postedTo p (some r) := by
  unfold State.posted State.postedTo CompletionRecord.postedNotice
  split
  · rename_i q hq
    by_cases h : q = p <;> simp [noticesTo, hq, h]
  · rename_i hq
    have : s.holder ≠ .port p := fun k => hq p k
    simp [noticesTo, this]

theorem State.postRecord_offered (s : State) (r : CompletionRecord) : s.offered (s.postRecord r) (s.posted r) := by
  have added : s.offered { s with completions := s.completions ++ [r] } [] := State.offered_of_same rfl rfl
  cases h : s.holder with
  | port p =>
    simp only [State.postRecord, State.posted, h]
    exact State.offered_trans added (State.offerNotice_offered _ _ _ rfl)
  | _ =>
    simp only [State.postRecord, State.posted, h]
    exact added

theorem State.offerNotices_holder (s : State) (l : List (PortId × NoticeBody)) :
    (s.offerNotices l).holder = s.holder := by
  obtain ⟨ports, queues, h, _⟩ := s.offerNotices_frame l
  rw [h]

theorem State.announce_offered (s : State) (r : CompletionRecord) (l : List (PortId × NoticeBody))
    (h : ∀ x ∈ l, x.2.isPending = false) :
    s.offered (s.announce r l) (s.posted r ++ l) ∨ s.offered (s.announce r l) (l ++ s.posted r) := by
  unfold State.announce
  split
  · exact .inl (State.offered_trans
      (State.offered_trans (a := []) (State.offered_of_same (t := { s with fresh := s.fresh + 1 }) rfl rfl)
        (State.postRecord_offered { s with fresh := s.fresh + 1 } r)) (State.offerNotices_offered l _ h))
  · refine .inr (State.offered_trans
      (State.offered_trans (a := []) (State.offered_of_same (t := { s with fresh := s.fresh + 1 }) rfl rfl)
        (State.offerNotices_offered l _ h)) ?_)
    have := State.postRecord_offered (({ s with fresh := s.fresh + 1 } : State).offerNotices l) r
    rwa [State.posted, State.offerNotices_holder] at this

/-! ## In the words of the statements -/

theorem State.sendsNotices_of_offered {s t : State} {l : List (PortId × NoticeBody)} {r : CompletionRecord}
    (h : s.offered t (s.posted r ++ l) ∨ s.offered t (l ++ s.posted r)) : s.sendsNotices t l (some r) := by
  intro p
  by_cases ho : (s.port p).state = .opened
  · obtain h | h := h
    all_goals
      obtain ⟨_, _, h3⟩ := h p
      have h4 := h3 ho
      rw [noticesTo_append, State.noticesTo_posted] at h4
      refine ⟨_, ⟨fun k => absurd ho k, fun _ => ⟨_, ?_, h4.1, rfl⟩⟩, h4.2⟩
      simp
  · have h5 : t.noticeQueue p = s.noticeQueue p ∧ (t.port p).outbox = (s.port p).outbox := by
      obtain h | h := h
      all_goals exact (h p).2.1 ho
    exact ⟨[], ⟨fun _ => ⟨h5.1, rfl⟩, fun k => absurd k ho⟩, by simp [h5.2]⟩

/-- A step that leaves the ports and the notice queues alone sends nothing. -/
theorem State.sendsNotices_none {s t : State} (h : t.ports = s.ports) (k : t.noticeQueues = s.noticeQueues) :
    s.sendsNotices t [] none := by
  intro p
  have hp : t.port p = s.port p := by simp only [State.port, h]
  have hq : t.noticeQueue p = s.noticeQueue p := by simp only [State.noticeQueue, k]
  refine ⟨[], ⟨fun _ => ⟨hq, rfl⟩, fun _ => ⟨[], .inl rfl, hq, rfl⟩⟩, by simp [hp]⟩

theorem State.sendsNotices_congr {s s' t : State} {l : List (PortId × NoticeBody)} {r : Option CompletionRecord}
    (h : s.sameNoticeSide s') (k : s'.sendsNotices t l r) : s.sendsNotices t l r := by
  intro p
  obtain ⟨h1, h2, h3⟩ := h
  have hp : s'.port p = s.port p := by simp only [State.port, h1]
  have hq : s'.noticeQueue p = s.noticeQueue p := by simp only [State.noticeQueue, h2]
  have hr : s'.postedTo p r = s.postedTo p r := by cases r <;> simp [State.postedTo, h3]
  have := k p
  simpa only [State.takesNotices, hp, hq, hr] using this

theorem State.postRecord_sends (s : State) (r : CompletionRecord) : s.sendsNotices (s.postRecord r) [] (some r) :=
  State.sendsNotices_of_offered (.inr (s.postRecord_offered r))

theorem State.announce_sends (s : State) (r : CompletionRecord) (l : List (PortId × NoticeBody))
    (h : ∀ x ∈ l, x.2.isPending = false) : s.sendsNotices (s.announce r l) l (some r) :=
  State.sendsNotices_of_offered (s.announce_offered r l h)

/-- The end of the head change hands over its notices and its record's COMPLETION_POSTED. -/
theorem State.endHead_sends (s : State) (ch : ChangeRecord) (o : RecordOutcome) (l : List (PortId × NoticeBody))
    (h : ∀ x ∈ l, x.2.isPending = false) : s.sendsNotices (s.endHead ch o l) l (some (s.changeRecord ch o)) :=
  State.sendsNotices_congr (s' := { s with changeQueue := s.changeQueue.tail, active := none }) ⟨rfl, rfl, rfl⟩
    (State.announce_sends _ _ l h)

/-- The end of the head change, seen from a state before it whose ports, queues and holder are the same. -/
theorem State.endedTelling_endHead {s t : State} {ch : ChangeRecord} {o : RecordOutcome} {r : CompletionRecord}
    {l : List (PortId × NoticeBody)} (side : s.sameNoticeSide t) (h : t.changeQueue = s.changeQueue)
    (h2 : t.completions = s.completions) (hr : t.changeRecord ch o = r) (hl : ∀ x ∈ l, x.2.isPending = false) :
    s.endedTelling (t.endHead ch o l) r l := by
  refine ⟨State.endedWith_endHead h h2 hr l, State.sendsNotices_congr side ?_⟩
  rw [← hr]
  exact t.endHead_sends ch o l hl

/-- The end record of the Copy Engine: posted with its COMPLETION_POSTED when a place is free, else held with nothing
sent (R157). -/
theorem State.finishCopy_sends (s : State) (r : CompletionRecord) :
    s.sendsNotices (s.finishCopy r) [] (if s.placeFree = true then some r else none) := by
  unfold State.finishCopy
  cases s.placeFree with
  | true =>
    exact State.sendsNotices_congr (s' := { s with copyEngine := .idle }) ⟨rfl, rfl, rfl⟩ (State.postRecord_sends _ r)
  | false => exact State.sendsNotices_none rfl rfl

/-! ## What the engines offer is never PENDING -/

theorem Handover.commitNotices_plain (h : Handover) (g : Generation) :
    ∀ x ∈ h.commitNotices g, x.2.isPending = false := by
  unfold Handover.commitNotices
  cases h.kind <;> simp [NoticeBody.isPending]

/-- The notices of a commit are those of Table 42. -/
theorem Handover.commitNotices_tells (h : Handover) (g : Generation) :
    h.kind.tells h.losing h.extent h.change.id g (h.commitNotices g) := by
  unfold Handover.commitNotices HandoverKind.tells
  cases hk : h.kind <;> simp

theorem Handover.pendingBody_warns (h : Handover) (g : Generation) :
    h.kind.warns h.extent h.change.id g (h.pendingBody g) := by
  unfold Handover.pendingBody HandoverKind.warns
  cases hk : h.kind <;> simp

/-- The notices that a rollback offers are those of R136, and none of them is PENDING. -/
theorem State.rollback_telling (s : State) (h : Handover) (outcome : RecordOutcome) (b : ExtentBody)
    (hb : (s.extent h.extent).body? = some b) :
    ∃ l, h.restores b.generation l ∧ (∀ x ∈ l, x.2.isPending = false) ∧
      s.rollback h outcome = (s.setExtent h.extent (.active b)).endHead h.change outcome l := by
  have hg : (s.setExtent h.extent (.active b)).generationOf h.extent = some b.generation := by
    simp [State.generationOf, Extent.body?]
  unfold State.rollback
  rw [State.activate_some hb]
  simp only [id_eq, hg, Option.getD_some]
  cases hp : h.pendingNotice <;>
    exact ⟨_, by simp [Handover.restores, hp], by simp [NoticeBody.isPending], rfl⟩

theorem HandoverKind.apply_generation (k : HandoverKind) (p : PortId) (b : ExtentBody) :
    (k.apply p b).generation = b.generation := by
  cases k <;> rfl

/-- A handover's commit: the record, then the end of the head change with the notices of Table 42. -/
theorem State.commitHandover_eq (s : State) (h : Handover) (b : ExtentBody) (hb : (s.extent h.extent).body? = some b) :
    s.commitHandover h = (s.setExtent h.extent (.active (h.kind.apply h.losing b).advance)).endHead h.change h.doneOutcome
      (h.commitNotices (b.generation + 1)) := by
  have hg : (s.setExtent h.extent (.active (h.kind.apply h.losing b).advance)).generationOf h.extent =
      some (b.generation + 1) := by
    simp [State.generationOf, Extent.body?, ExtentBody.advance, HandoverKind.apply_generation]
  simp only [State.commitHandover, State.activate_some hb, hg, Option.getD_some]

/-- The Copy Engine's end record posted or held: what else changes, and what is sent (R157). -/
theorem State.finishCopy_spec (s : State) (r : CompletionRecord) :
    (s.placeFree = true → (s.finishCopy r).copyEngine = .idle ∧ (s.finishCopy r).completions = s.completions ++ [r] ∧
      s.sendsNotices (s.finishCopy r) [] (some r)) ∧
    (s.placeFree = false → (s.finishCopy r).copyEngine = .ending r ∧ (s.finishCopy r).completions = s.completions ∧
      s.sendsNotices (s.finishCopy r) [] none) := by
  have sends := s.finishCopy_sends r
  obtain ⟨ports, queues, _, e⟩ := s.finishCopy_frame r
  cases h : s.placeFree with
  | true =>
    simp only [h, if_true] at e sends
    exact ⟨fun _ => ⟨by rw [e], by rw [e], sends⟩, fun k => Bool.noConfusion k⟩
  | false =>
    simp only [h, Bool.false_eq_true, if_false] at e sends
    exact ⟨fun k => Bool.noConfusion k, fun _ => ⟨by rw [e], by rw [e], sends⟩⟩

end Sys2Proof.Machine
end

