-- ==== Sys2Proof/Laws/Packets.lean ====
section
/-! SUPPORT. Acknowledgements and the entry that a tag names. -/

namespace Sys2Proof.Machine

/-- A sequence that no notice has splits nothing off (R170). -/
theorem ackSplit_none {sq : BitVec 8} {l : List Notice} (h : ∀ m ∈ l, m.sequence ≠ sq) : ackSplit sq l = none := by
  induction l with
  | nil => rfl
  | cons n rest ih =>
    simp only [List.forall_mem_cons] at h
    simp [ackSplit, h.1, ih h.2]

/-- A sequence splits off its notice and every older one (R170). -/
theorem ackSplit_some {sq : BitVec 8} {older kept : List Notice} {n : Notice} (h : ∀ m ∈ older, m.sequence ≠ sq)
    (hn : n.sequence = sq) : ackSplit sq (older ++ n :: kept) = some (older ++ [n], kept) := by
  induction older with
  | nil => simp [ackSplit, hn]
  | cons m rest ih =>
    simp only [List.forall_mem_cons] at h
    simp [ackSplit, h.1, ih h.2]

/-- The split loses no notice. -/
theorem ackSplit_append {sq : BitVec 8} {l removed kept : List Notice} (h : ackSplit sq l = some (removed, kept)) :
    l = removed ++ kept := by
  induction l generalizing removed kept with
  | nil => simp [ackSplit] at h
  | cons n rest ih =>
    simp only [ackSplit] at h
    split at h
    · simp only [Option.some.injEq, Prod.mk.injEq] at h
      simp [← h.1, ← h.2]
    · split at h
      · simp at h
      · next r k e =>
        simp only [Option.some.injEq, Prod.mk.injEq] at h
        rw [← h.1, ← h.2, ih e]
        rfl

/-- A counted entry of a kind and tag exists exactly when the search finds one (R63). -/
theorem countedEntry_isSome {l : List Entry} {kind : ReqKind} {tag : Byte} :
    (countedEntry l kind tag).isSome = true ↔ ∃ e ∈ l, e.kind = kind ∧ e.opTag = tag ∧ e.state ≠ .retiring := by
  simp [countedEntry, List.find?_isSome, Entry.is, Entry.counted, and_assoc]

theorem retiringOf_eq_zero {l : List Entry} : retiringOf l = 0 ↔ ∀ e ∈ l, e.state ≠ .retiring := by
  simp [retiringOf, Entry.counted]

end Sys2Proof.Machine
end

