-- ==== Sys2Proof/Laws/Ports.lean ====
section
/-! SUPPORT. What a port reset does to each block (R55 Table 21). -/

namespace Sys2Proof.Machine

theorem errorsTail_absent (a b c d k : Nat) : 1 * a + k * b + 0 * c + 0 * d = a + k * b + 0 := by simp

theorem errorsTail_present (a b c d k t : Nat) : 1 * a + k * b + 1 * c + t * d = a + k * b + (c + t * d) := by
  simp [Nat.add_assoc]

/-- PORT_ERRORS, field by field (R60). -/
theorem LinkPort.errorsWord_eq (x : LinkPort) :
    x.errorsWord = x.crcDrops + x.protocolErrors * 2 ^ 16 + x.orphanData * 2 ^ 24 +
      match x.error with
      | none => 0
      | some e => 2 ^ 32 + e.kind.code.toNat * 2 ^ 33 +
        match e.tag with
        | none => 0
        | some tag => 2 ^ 36 + tag.toNat * 2 ^ 40 := by
  unfold LinkPort.errorsWord
  cases x.error with
  | none => rw [field, field, field, Nat.pow_zero, Nat.mul_one]
  | some e =>
    rw [field, field, field, Nat.pow_zero, Nat.mul_one]
    congr 1
    have fields : field 32 1 + field 33 e.kind.code.toNat + field 36 (flagNat e.tag.isSome) +
        field 40 (e.tag.getD 0).toNat = 2 ^ 32 + e.kind.code.toNat * 2 ^ 33 +
          match e.tag with
          | none => 0
          | some tag => 2 ^ 36 + tag.toNat * 2 ^ 40 := by
      unfold field
      cases e.tag with
      | none => exact errorsTail_absent _ _ _ _ _
      | some tag => exact errorsTail_present _ _ _ _ _ _
    exact fields

theorem Channel.dropRequester_queue (x : Channel) (p : PortId) :
    (x.dropRequester p).queue = x.queue ∧ (x.dropRequester p).memory = x.memory := by
  unfold Channel.dropRequester
  split
  · split <;> exact ⟨rfl, rfl⟩
  · exact ⟨rfl, rfl⟩

theorem State.clearSlot_channel (s : State) (p : PortId) (c : ChannelId) :
    (s.clearSlot p).channel c = (s.channel c).dropRequester p := by
  have h : c = 0 ∨ c = 1 := by revert c; decide
  rcases h with h | h <;> subst h <;> simp [State.clearSlot]

/-- A tracker after its port's reset: the waiting entries gone, the others retiring (R88). -/
theorem keptEntries_onPortReset (l : List Entry) :
    keptEntries Entry.onPortReset l = (l.filter (fun e => !e.waiting)).map (fun e => { e with state := .retiring }) := by
  induction l with
  | nil => rfl
  | cons e rest ih =>
    cases h : e.state <;> simp [keptEntries, Entry.onPortReset, h, ih, Entry.waiting]
    rw [← h]

theorem answers_onPortReset (l : List Entry) : answers Entry.onPortReset l = [] := by
  apply answers_nil
  intro e _ pkt
  simp only [Entry.onPortReset]
  split <;> simp

/-- Leaving the role and the slot behind touches nothing else but the request a channel holds for the port. -/
theorem State.freeRole_clearSlot_frame (s : State) (p : PortId) :
    ∃ channels holder, (s.freeRole p).clearSlot p =
        { s with channels := channels, holder := holder, slots := s.slots.set p none } ∧
      holder ≠ .port p ∧ ∀ c : ChannelId, channels[c] = (s.channel c).dropRequester p := by
  have key : ∀ t : State, t.channels = s.channels →
      ∀ c : ChannelId, (t.clearSlot p).channels[c] = (s.channel c).dropRequester p := by
    intro t h c
    have := t.clearSlot_channel p c
    simp only [State.channel, h] at this ⊢
    exact this
  by_cases h : s.holder = .port p
  · refine ⟨({ s with holder := .none } : State).clearSlot p |>.channels, .none, ?_, by simp, key _ rfl⟩
    simp only [State.freeRole, h, if_true]
    rfl
  · refine ⟨(s.clearSlot p).channels, s.holder, ?_, h, key _ rfl⟩
    simp only [State.freeRole, h, if_false]
    rfl

/-- A port reset: what the reset port's blocks hold, and what is left alone. -/
theorem State.resetPort_effect (s : State) (p : PortId) (target : PortState) (clear : Bool) (h : target ≠ .opened) :
    (s.resetPort p target clear).port p = (if clear then ((s.port p).drop target).clearCounters else (s.port p).drop target) ∧
    (s.resetPort p target clear).tracker p =
      ((s.tracker p).filter (fun e => !e.waiting)).map (fun e => { e with state := .retiring }) ∧
    (s.resetPort p target clear).noticeQueue p = .empty ∧ (s.resetPort p target clear).slot p = none ∧
    (s.resetPort p target clear).holder ≠ .port p ∧
    (∀ q : PortId, q ≠ p → (s.resetPort p target clear).tracker q = s.tracker q ∧
      ((s.resetPort p target clear).port q).quiet = (s.port q).quiet ∧ (s.resetPort p target clear).slot q = s.slot q) ∧
    (s.resetPort p target clear).layout = s.layout ∧ (s.resetPort p target clear).copyEngine = s.copyEngine ∧
    (∀ c : ChannelId, (s.resetPort p target clear).channel c = (s.channel c).dropRequester p) := by
  let x : LinkPort := if clear then ((s.port p).drop target).clearCounters else (s.port p).drop target
  have hx : x.state = target := by simp only [x]; split <;> rfl
  let s2 := (s.setPort p x).setNoticeQueue p .empty
  obtain ⟨channels, holder, e3, h3, c3⟩ := s2.freeRole_clearSlot_frame p
  obtain ⟨ports, queues, extents, completions, fresh, cq, act, e4, q4, c4⟩ :=
    ((s2.freeRole p).clearSlot p).confirmByLoss_frame p
  rw [e3] at e4 q4 c4
  have p3 : ({ s2 with channels := channels, holder := holder, slots := s2.slots.set p none } : State).port p = x :=
    State.setPort_port_self s p x
  obtain ⟨c41, c42⟩ := c4 p (by rw [p3, hx]; exact h)
  have ht : s.resetPort p target clear =
      (({ s2 with channels := channels, holder := holder, slots := s2.slots.set p none } : State).confirmByLoss
        p).setTracker p (((s.tracker p).filter (fun e => !e.waiting)).map (fun e => { e with state := .retiring })) := by
    show (((s2.freeRole p).clearSlot p).confirmByLoss p).applyFates p Entry.onPortReset = _
    rw [e3, State.applyFates, answers_onPortReset, State.sendAll_nil, keptEntries_onPortReset, e4]
    rfl
  rw [ht]
  refine ⟨?_, by simp, ?_, ?_, ?_, fun q hq => ⟨?_, ?_, ?_⟩, ?_, ?_, fun c => ?_⟩
  · rw [State.setTracker_port, c41, p3]
  · rw [State.setTracker_noticeQueue, c42]
    exact State.setNoticeQueue_noticeQueue_self _ p _
  · rw [State.setTracker_slot, e4]
    exact State.setSlot_slot_self s2 p none
  · rw [State.setTracker_holder, e4]; exact h3
  · rw [State.setTracker_tracker_ne _ _ _ _ hq, e4]; rfl
  · rw [State.setTracker_port, e4]
    refine (q4 q).trans ?_
    exact congrArg LinkPort.quiet (State.setPort_port_ne s p x q hq)
  · rw [State.setTracker_slot, e4]
    exact State.setSlot_slot_ne s2 p none q hq
  · rw [State.setTracker_layout, e4]; rfl
  · rw [State.setTracker_copyEngine, e4]; rfl
  · rw [State.setTracker_channel, e4]; exact c3 c

end Sys2Proof.Machine
end

