-- ==== Sys2Proof/Laws/Receive.lean ====
section
/-! SUPPORT. Every received frame and packet names a well-formed command. -/

namespace Sys2Proof.Machine

/-- A kind with an operand length has a request (Table 68). -/
theorem requestCommand_isSome {kind : Byte} {n : Nat} (h : operandLength kind = some n) (path : MgmtPath)
    (ops : List Byte) : (requestCommand path kind ops).isSome = true := by
  simp only [operandLength] at h
  unfold requestCommand
  split at h <;> first | (next k => simp only [k, Option.isSome_some]) | cases h

/-- A request named by a kind and its operands is well formed. -/
theorem requestCommand_wf {path : MgmtPath} {kind : Byte} {ops : List Byte} {c : Instr}
    (h : requestCommand path kind ops = some c) : c.wf = true := by
  unfold requestCommand at h
  split at h <;> first | cases h; rfl | cases h

/-- Every request frame names a well-formed command (R197, R198). -/
theorem frameCommand_wf (frame : MgmtFrame) : (frameCommand frame).wf = true := by
  unfold frameCommand
  split
  · next k =>
    cases h : requestCommand (framePath frame) (frameCode frame) (frameOperands frame) with
    | some c => exact requestCommand_wf h
    | none =>
      exfalso
      have key : ∀ ops, requestFieldsOk (frameCode frame) ops = true → False := by
        intro ops hf
        simp only [requestFieldsOk, Bool.and_eq_true, decide_eq_true_eq] at hf
        have := requestCommand_isSome hf.1 (framePath frame) (frameOperands frame)
        rw [h] at this; cases this
      cases frame with
      | i2c bytes =>
        match bytes, k with
        | kind :: n :: rest, k =>
          simp only [frameFieldsOk, Bool.and_eq_true] at k
          exact key _ k.2
        | [], k => cases k
        | [_], k => cases k
      | inBand p pkt =>
        simp only [frameFieldsOk] at k
        split at k
        · next kind ops e =>
          simp only [Bool.and_eq_true] at k
          refine key ops ?_
          simp only [frameCode, opByte, e]
          exact k.2
        · cases k
  · next k => simp [Instr.wf, wfBadRequest, k]

/-- Every received packet names a well-formed command (R50, R193). -/
theorem packetCommand_wf (p : PortId) (bytes : List Byte) : (packetCommand p bytes).wf = true := by
  unfold packetCommand
  simp only
  split
  · next k => exact k
  · split
    · next k => exact k
    · split
      · rfl
      · rfl
      · rfl
      · rfl
      · exact frameCommand_wf _
      · rfl
      · unfold configCommand
        split
        · rfl
        · split
          · rfl
          · split
            · rfl
            · next h1 h2 h3 => simp [Instr.wf, wfConfig]; exact ⟨⟨h1, h2⟩, h3⟩

end Sys2Proof.Machine
end

