-- ==== Sys2Proof/Tests/Slice0.lean ====
section
/-! SUPPORT. Tests: ill-formed commands are refused, the manual's worked examples step by step, and for every statement with
hypotheses a state and operands that meet them. -/


set_option maxRecDepth 100000
set_option exponentiation.threshold 600
namespace Sys2Proof.Tests

open Sys2Proof Sys2Proof.Machine

/-! ## Helpers -/

/-- A property of the state that a command answers. -/
def after (c : Instr) (s : State) (f : State → Bool) : Bool :=
  match exec c s with
  | .next t => f t
  | _ => false

/-- An OPEN port with a window of 8 segments and all its credits. -/
def openPort : LinkPort :=
  { LinkPort.atPowerOn with state := .opened, windowSize := 8, acceptance := some 8, grantedReads := 24, grantedWrites := 16 }

/-- A port of the window 8 in another state, without credits. -/
def idlePort (st : PortState) : LinkPort := { LinkPort.atPowerOn with state := st, windowSize := 8 }

/-- An ONLINE channel of 16 segments filled with zeros. -/
def onlineChannel : Channel :=
  { Channel.atPowerOn with state := .online, slots := #v[some 16, none, none, none], memory := Memory.filled .zero }

/-- Segments 0 to 3 on CH0, 4 to 7 on CH1. -/
def smallLayout : Layout :=
  { pool := .online 8 4 4, preserve := false
    ranges := [⟨4, .ch0, some 0, none⟩, ⟨8, .ch1, none, some 0⟩] }

/-- The fields of extent 3: segments 0 and 1, mapped read-write at the base of port 0's window. -/
def body : ExtentBody :=
  { poolBase := 0, length := 2, share := .exclusive, generation := 5,
    mapping := #v[some ⟨0, .readWrite⟩, none, none, none] }

/-- The bridge at work: four OPEN ports, two ONLINE channels, extent 3 in one state, the board in the role. -/
def working (x : Extent) : State :=
  { State.reset with
      ports := Vector.replicate 4 openPort
      extents := (Vector.replicate 64 .free).set 3 x
      layout := smallLayout
      channels := Vector.replicate 2 onlineChannel
      holder := .i2c
      eligible := 15 }

def base : State := working (.active body)

/-- A read or write of extent 3. -/
def entry (kind : ReqKind) (tag : Byte) (st : EntryState) (r : Resolution) : Entry :=
  { kind := kind, opTag := tag, extent := 3, generation := 5, line := 0, resolution := r, mask := BitVec.allOnes 64,
    half0 := none, half1 := none, state := st, sourcePart := none, destPart := false, timer := none }

def src0 : Target := ⟨0, 0⟩
def dst1 : Target := ⟨1, 0⟩
def dst0 : Target := ⟨0, 8388608⟩

def change (op : ChangeOp) : ChangeRecord := { id := 41, submitter := .i2c, op := op }

/-- A change that waits at the head. -/
def waiting (op : ChangeOp) : State := { base with changeQueue := [change op] }

/-- The handover that takes extent 3 from port 0. -/
def handover (kind : HandoverKind) (phase : HandoverPhase) : Handover :=
  { change := change (.unmap 3 0 true false), extent := 3, losing := 0, kind := kind, force := false, phase := phase,
    forced := false, confirmation := if phase = .drain then some .notRequested else none, pendingNotice := .sent 7,
    roomReported := false, confirmTimer := if phase = .confirm then some 1000 else none,
    drainTimer := if phase = .drain then some 100 else none, abortedCount := 0 }

/-- Extent 3 CHANGING under a handover. -/
def changing (h : Handover) : State :=
  { working (.changing body 41) with changeQueue := [h.change], active := some h }

/-- A relocation of extent 3 to a base. -/
def relocation (target : Nat) (phase : CopyPhase) (cursor : Nat) (pairs : List PairRecord) : Relocation :=
  { extent := 3, sourceBase := 0, targetBase := target, lengthLines := 8388608, phase := phase, cursor := cursor,
    pairs := pairs, poisonedLines := 0, destFault := false }

def copying (r : Relocation) : State := { working (.relocating body) with copyEngine := .running r }

def pairOf (n : PairNumber) (f : PairForm) (w : WritePart) : PairRecord :=
  { number := n, line := 0, form := f, dst := dst1, writePart := w }

/-- An operation of port 0. -/
def operation (a : OpAction) (line : Nat) (tag : Byte) (part : Option Part) : Operation :=
  { action := a, line := line, origin := .port 0 tag, part := part, slot := .reserved }

def copyOperation (a : OpAction) (line : Nat) (n : PairNumber) : Operation :=
  { action := a, line := line, origin := .copy n, part := none, slot := .reserved }

def withQueue (s : State) (c : ChannelId) (q : List Operation) : State :=
  s.setChannel c { s.channel c with queue := q }

def withChannelState (s : State) (c : ChannelId) (st : ChannelState) : State :=
  s.setChannel c { s.channel c with state := st }

/-- A notice of the change 41 to port 0. -/
def pendingNote (sq : BitVec 8) : Notice := { sequence := sq, body := .pendingRevoke 3 41 5, lostBefore := 0 }

def withNotices (s : State) (p : PortId) (sequences : List (BitVec 8)) (next : BitVec 8) (lost : Nat) : State :=
  s.setNoticeQueue p { notices := sequences.map (fun sq => { sequence := sq, body := .roleLost, lostBefore := 0 }),
                       next := next, lost := lost }

/-- A READ body: tag and node address. -/
def readPacket (tag : Byte) (a : Nat) : RawPacket := { len := 6, body := tag :: le 5 a }

/-- A WRITE body: tag, node address and byte mask. -/
def writePacket (tag : Byte) (a mask : Nat) : RawPacket := { len := 14, body := tag :: (le 5 a ++ le 8 mask) }

def fullMask : Nat := 0xFFFFFFFFFFFFFFFF

/-- A WDATA body: tag, half and 32 bytes of one value. -/
def dataPacket (tag half value : Byte) : RawPacket := { len := 34, body := tag :: half :: List.replicate 32 value }

/-! ## Ill-formed commands -/

theorem test_drop_of_a_good_packet_is_ill_formed :
    Instr.wf (.packetCrcDrop 0 (let c := 0x05 :: 0x01 :: [0x07]; c ++ le 4 (crc32 c).toNat)) = false ∧
    Instr.wf (.packetCrcDrop 0 [0x05, 0x01, 0x07, 0, 0, 0, 0]) = true := by decide

theorem test_undefined_packet_of_a_defined_kind_is_ill_formed :
    Instr.wf (.undefinedPacket 0 0x01 ⟨6, []⟩) = false ∧ Instr.wf (.undefinedPacket 0 0x06 ⟨1, [0]⟩) = false ∧
    Instr.wf (.undefinedPacket 0 0x08 ⟨0, []⟩) = true ∧ Instr.wf (.undefinedPacket 0 0x07 ⟨1, [0]⟩) = true := by
  decide

theorem test_config_write_of_a_word_with_its_own_row_is_ill_formed :
    Instr.wf (.configWrite 0 (.write 1 8)) = false ∧ Instr.wf (.configWrite 0 (.write 2 8)) = false ∧
    Instr.wf (.configWrite 0 (.write 3 0)) = false ∧ Instr.wf (.configWrite 0 (.write 0 8)) = true := by decide

theorem test_bad_request_of_a_good_frame_is_ill_formed :
    Instr.wf (.mgmtBadRequest (.i2c [0x38, 0x00, crc8 [0x38, 0x00]])) = false ∧
    Instr.wf (.mgmtBadRequest (.inBand 0 ⟨2, [0x11, 63]⟩)) = false ∧
    Instr.wf (.mgmtBadRequest (.inBand 0 ⟨2, [0x11, 64]⟩)) = true := by decide

/-- An ill-formed command has no effect. -/
theorem test_ill_formed_commands_do_nothing :
    after (.undefinedPacket 0 0x01 ⟨6, []⟩) base (fun t => decide (t = base)) = true ∧
    after (.mgmtBadRequest (.inBand 0 ⟨2, [0x11, 63]⟩)) base (fun t => decide (t = base)) = true := by decide

/-! ## The queue of commands -/

theorem test_no_row_gives_bits : decodeTableWord 8 0 = none ∧ State.reset.withFetchWord 8 0 = State.reset := by
  decide

theorem test_step_takes_the_front :
    (match step { State.reset with pending := [.partnerDetected 1, .linkLost 1] } with
     | .next t => decide ((t.port 1).state = .training) && decide (t.pending = [.linkLost 1])
     | _ => false) = true := by decide

/-! ## The manual's worked examples -/

/-- Section 1.7: four requests on port 2. -/
def lookupExample : State :=
  { State.reset with
      ports := State.reset.ports.set 2 openPort
      extents := ((Vector.replicate 64 .free).set 5 (.active
          { poolBase := 40, length := 3, share := .exclusive, generation := 6,
            mapping := #v[none, none, some ⟨4, .readWrite⟩, none] })).set 9 (.active
          { poolBase := 12, length := 2, share := .exclusive, generation := 0,
            mapping := #v[none, none, some ⟨0, .read⟩, none] }) }

theorem test_lookups_of_section_1_7 :
    lookupExample.lookup 2 .read 0x50001240 = .found 5 6 268440128 0x290001240 ∧
    lookupExample.lookup 2 .write 0x70000000 = .unmapped ∧
    lookupExample.lookup 2 .read 0x80000000 = .outOfWindow ∧
    lookupExample.lookup 2 .write 0x00000400 = .noRight := by decide

/-- Section 2.11: the list of Table 15, committed. -/
def unequalLayout : Layout :=
  { pool := .offline, preserve := false, ranges := [⟨128, .both, none, none⟩, ⟨320, .ch0, none, none⟩, ⟨448, .ch1, none, none⟩] }

theorem test_commit_of_section_2_11 :
    unequalLayout.committed.pool = .online 448 256 192 ∧
    unequalLayout.committed.ranges =
      [⟨128, .both, some 0, some 0⟩, ⟨320, .ch0, some 64, none⟩, ⟨448, .ch1, none, some 64⟩] := by decide

theorem test_decodings_of_section_2_11 :
    unequalLayout.committed.decode 0xA40 = some ⟨1, 17⟩ ∧
    unequalLayout.committed.decode 0xC80000040 = some ⟨0, 570425345⟩ ∧
    unequalLayout.committed.decode 0x1BFFFFFFC0 = some ⟨1, 805306367⟩ ∧
    unequalLayout.committed.segmentOfLine 0 300000000 = some 135 ∧
    unequalLayout.committed.segmentOfLine 1 17 = some 0 := by decide

/-- Section 2.11: the commit refused for CH1 without its second module. -/
theorem test_commit_refused_for_capacity :
    after (.poolCommit .i2c) { State.reset with
        holder := .i2c, layout := unequalLayout
        channels := #v[{ onlineChannel with slots := #v[some 128, some 128, none, none] },
                       { onlineChannel with slots := #v[some 128, none, none, none] }] }
      (fun t => decide (t.i2c = .ready { kind := 0x28, status := .refused .capacity, data := [1] }) &&
        decide (t.layout = unequalLayout)) = true := by decide

/-- Section 4.8: port 1's first three requests and the duplicate half. -/
def trafficExample : State :=
  { State.reset with
      ports := State.reset.ports.set 1 { openPort with grantedReads := 4, grantedWrites := 4 }
      extents := (Vector.replicate 64 .free).set 12 (.active
          { poolBase := 128, length := 4, share := .exclusive, generation := 2,
            mapping := #v[none, some ⟨0, .readWrite⟩, none, none] })
      layout := unequalLayout.committed
      channels := Vector.replicate 2 onlineChannel }

def w3 : Entry :=
  { kind := .write, opTag := 3, extent := 12, generation := 2, line := 1, resolution := .source ⟨0, 268435457⟩,
    mask := BitVec.allOnes 64, half0 := none, half1 := none, state := .waitData, sourcePart := none, destPart := false,
    timer := some 50 }

theorem test_write_of_section_4_8 :
    after (.write 1 (writePacket 3 0x40 fullMask)) trafficExample (fun t => decide (t.tracker 1 = [w3])) = true := by
  decide

theorem test_read_of_section_4_8 :
    after (.read 1 (readPacket 8 0x240)) (trafficExample.setTracker 1 [w3]) (fun t =>
      decide ((t.tracker 1).map (fun e => (e.opTag, e.line, e.state)) = [(3, 1, .waitData), (8, 9, .waitChannel)]) &&
        decide (trackerCandidate (t.tracker 1) 0 = none)) = true := by decide

theorem test_second_half_1_is_orphan_data :
    after (.wdata 1 (dataPacket 3 1 0xAA)) (trafficExample.setTracker 1 [{ w3 with half1 := some 7 }]) (fun t =>
      decide ((t.port 1).orphanData = 1) && decide (t.tracker 1 = [{ w3 with half1 := some 7 }])) = true := by
  decide

theorem test_second_half_moves_the_write_on :
    after (.wdata 1 (dataPacket 3 0 0xAA)) (trafficExample.setTracker 1 [{ w3 with half1 := some 7 }]) (fun t =>
      decide ((t.tracker 1).map (fun e => (e.state, e.timer)) = [(.waitChannel, none)])) = true := by
  decide

theorem test_tag_in_use_of_section_4_8 :
    after (.write 1 (writePacket 3 0x300 fullMask)) (trafficExample.setTracker 1 [w3]) (fun t =>
      decide ((t.port 1).outbox = [.wrAbort 3 .tagInUse none]) && decide ((t.port 1).protocolErrors = 1) &&
        decide ((t.port 1).error = some ⟨.tagInUse, some 3⟩)) = true := by decide

theorem test_data_timeout :
    after (.writeDataTimerExpiry 1 3) (trafficExample.setTracker 1 [w3]) (fun t =>
      decide (t.tracker 1 = []) && decide ((t.port 1).outbox = [.wrAbort 3 .dataTimeout (some 2)])) = true := by
  decide

/-- Table 35, event 1: only P2 has a place. -/
def fullQueue (n0 n2 n3 copy shared : Nat) : List Operation :=
  let op (o : Origin) (sl : SlotClass) (i : Nat) : Operation :=
    { action := .read, line := 1000 + i, origin := o, part := none, slot := sl }
  (List.range n0).map (op (.port 0 0) .reserved) ++ (List.range n2).map (op (.port 2 0) .reserved) ++
  (List.range n3).map (op (.port 3 0) .reserved) ++ (List.range copy).map (op (.copy 0) .reserved) ++
  (List.range shared).map (op (.port 0 1) .shared)

def arbiterExample : State :=
  { base with
      trackers := #v[[entry .read 0 .waitChannel (.source ⟨1, 5⟩)], [], [entry .write 0 .waitChannel (.source ⟨1, 6⟩)],
                     [entry .write 0 .waitChannel (.dual ⟨1, 7⟩ ⟨0, 7⟩)]]
      channels := #v[{ onlineChannel with queue := fullQueue 0 0 4 4 12 },
                     { onlineChannel with queue := fullQueue 4 2 0 4 12, lastWinner := 1 }] }

theorem test_grant_of_table_35 :
    arbiterExample.nextGrant 1 = some 2 ∧
    after (.admission 1) arbiterExample (fun t =>
      decide ((t.channel 1).lastWinner = 2) && decide ((t.channel 1).reservedUsed 2 = 3) &&
        decide (((t.tracker 2).map (·.state)) = [.atChannel])) = true := by decide

/-- Table 59, events 2, 3, 6, 8. -/
theorem test_notice_enters_with_the_sequence_that_wraps :
    let t := (withNotices base 3 [249, 250, 251, 252, 253, 254, 255] 0 0).offerNotice 3 (.upgraded 3 41 1)
    ((t.noticeQueue 3).notices.length = 8 ∧ (t.noticeQueue 3).next = 1) ∧
    (((t.offerNotice 3 .roleLost).noticeQueue 3).notices.length = 8 ∧
      ((t.offerNotice 3 .roleLost).noticeQueue 3).lost = 1 ∧ ((t.offerNotice 3 .roleLost).noticeQueue 3).next = 1) := by
  decide

theorem test_acknowledgement_across_the_wrap :
    after (.noticeAck 3 ⟨1, [1]⟩) (withNotices base 3 [253, 254, 255, 0, 1] 2 0) (fun t =>
      decide ((t.noticeQueue 3).notices = []) && decide ((t.noticeQueue 3).next = 2)) = true ∧
    after (.noticeAck 3 ⟨1, [7]⟩) (withNotices base 3 [253, 254, 255, 0, 1] 2 0) (fun t =>
      decide ((t.noticeQueue 3).notices.length = 5) && decide ((t.port 3).error = some ⟨.badAck, some 7⟩)) = true := by
  decide

/-- Table 63, events 1, 4 and 8. -/
theorem test_role_of_table_63 :
    after (.claim (.inBand 2)) { base with holder := .port 3, eligible := 12 } (fun t =>
      decide ((t.port 2).outbox = [.mgmtResponse ⟨0x38, .held, [3]⟩])) = true ∧
    after (.breakRole .i2c) { base with holder := .port 3 } (fun t =>
      decide (t.holder = .i2c) && decide (t.i2c = .ready ⟨0x40, .ok, [3]⟩) &&
        decide ((t.noticeQueue 3).notices.map (·.body) = [.roleLost])) = true ∧
    after (.claim (.inBand 3)) { base with holder := .none, eligible := 4 } (fun t =>
      decide ((t.port 3).outbox = [.mgmtResponse ⟨0x38, .notEligible, []⟩])) = true := by decide

/-! ## Sizes of what is sent -/

theorem test_sizes :
    CompletionRecord.encode ⟨41, .setRights, some 12, none, some .i2c, .doneHandover .acknowledged, some 3⟩ =
        [41, 0, 0x06, 12, 0xFF, 0x04, 0x01, 0x03, 0, 0, 0, 0, 1, 3, 0] ∧
    (OutPacket.rdReturn 7 .ok 2 0).body.length = 68 ∧ (OutPacket.notice (pendingNote 7)).body.length = 14 ∧
    (ChangeOp.encode (.unmap 3 0 true false)).length = 18 ∧
    (base.encodeHandover (handover .unmap .confirm)).length = 37 ∧ State.reset.layout.report.length = 9 := by decide

theorem test_i2c_address : State.reset.i2cAddress = 0x58 ∧ ({ State.reset with straps := ⟨3, 0⟩ } : State).i2cAddress = 0x5B := by
  decide

/-- The two cyclic codes on the nine digits (log 20). -/
theorem test_cyclic_codes :
    crc32 [0x31, 0x32, 0x33, 0x34, 0x35, 0x36, 0x37, 0x38, 0x39] = 0xCBF43926#32 ∧
    crc8 [0x31, 0x32, 0x33, 0x34, 0x35, 0x36, 0x37, 0x38, 0x39] = 0xF4#8 := by decide

/-! ## States that meet the hypotheses of the statements: queue, power and reset -/

def withPort (s : State) (p : PortId) (x : LinkPort) : State := s.setPort p x

def withPreserve (s : State) : State := { s with layout := { s.layout with preserve := true } }

def atWork : State := changing (handover .unmap .confirm)

def finishing : State := copying (relocation 4 .finishing 8388608 [])

theorem test_witness_StepRunsFrontCommand : base.pending = [] := by decide

theorem test_witness_CommandsLeaveTheQueue : ∃ t, exec (.partnerDetected 0) base = .next t := ⟨_, rfl⟩

theorem test_witness_NothingWhilePowerIsOff :
    ({ base with power := .off } : State).power = .off ∧ powerCommand (.bridgeReset .i2c) = false ∧
    powerCommand (.bridgeResetEnd ⟨0, 0⟩) = false ∧ powerCommand (.channelFault 0) = false := by decide

theorem test_witness_BridgeResetBegins : base.power = .running ∧ base.receives .i2c := by
  simp only [State.receives]; decide

theorem test_witness_BridgeResetKeepsOrClears :
    base.power = .running ∧ base.layout.preserve = false ∧
    (withPreserve base).power = .running ∧ (withPreserve base).layout.preserve = true ∧
    (withPreserve base).extent 0 = .free ∧ (withPreserve base).extent 3 = .active body ∧
    (withPreserve atWork).extent 3 = .changing body 41 ∧
    (withPreserve finishing).extent 3 = .relocating body ∧
    (withPreserve finishing).copyEngine = .running (relocation 4 .finishing 8388608 []) ∧
    (withPreserve (copying (relocation 4 .copying 7 []))).copyEngine = .running (relocation 4 .copying 7 []) ∧
    ((withPreserve base).channel 0).state = .online ∧
    ((withPreserve (withChannelState base 1 .faulted)).channel 1).state = .faulted ∧
    ((withPreserve (withChannelState base 1 .filling)).channel 1).state = .filling ∧
    ((withPreserve (withChannelState base 1 (.detecting true none))).channel 1).state = .detecting true none := by
  decide

theorem test_bridge_reset_with_preserve_resolves_extents :
    after .resetNFallingEdge (withPreserve finishing) (fun t =>
      decide (t.extent 3 = .active { body with poolBase := 4, generation := 6 }) &&
        decide (t.lastReset = ⟨.resetPin, true⟩) && !t.layout.preserve) = true ∧
    after .resetNFallingEdge (withPreserve atWork) (fun t => decide (t.extent 3 = .active body)) = true := by
  decide +kernel

theorem test_witness_CutWorkIsRecorded :
    (withPreserve atWork).power = .running ∧ (withPreserve atWork).layout.preserve = true ∧
    (withPreserve atWork).active = some (handover .unmap .confirm) ∧ (withPreserve atWork).copyEngine = .idle ∧
    (withPreserve finishing).active = none ∧
    (withPreserve finishing).copyEngine = .running (relocation 4 .finishing 8388608 []) ∧
    (withPreserve base).active = none ∧ (withPreserve base).copyEngine = .idle ∧ (withPreserve base).changeQueue = [] ∧
    (withPreserve base).completions = [] := by decide

def held (low : Bool) (fault : Bool) : State :=
  { base with power := .inReset, resetNLow := low,
              channels := Vector.replicate 2 { onlineChannel with retentionFault := fault } }

theorem test_witness_BridgeResetEnds :
    (held true false).power = .inReset ∧ (held true false).resetNLow = true ∧ (held false false).power = .inReset ∧
    (held false false).resetNLow = false ∧ ((held true false).channel 0).retentionFault = false ∧
    ((held false true).channel 0).retentionFault = true := by decide

theorem test_reset_ends_with_the_straps :
    after (.resetNRise ⟨1, 5⟩) (held true true) (fun t => decide (t.power = .running) && decide (t.eligible = 5) &&
      decide ((t.channel 0).state = .faulted) && decide ((t.channel 0).firstError = some .fault)) = true ∧
    after (.bridgeResetEnd ⟨0, 2⟩) (held false false) (fun t => decide (t.power = .running) && decide (t.eligible = 2)) = true ∧
    after (.powerOn ⟨2, 9⟩) { base with power := .off } (fun t => decide (t.eligible = 9) && decide (t.extent 3 = .free)) = true ∧
    after .pwrgoodDeasserted base (fun t => decide (t.power = .off)) = true ∧
    after (.bridgeReset .i2c) base (fun t => decide (t.power = .inReset) && decide (t.lastReset.cause = .resetRequest)) = true := by
  decide

/-! ## Ports and intake -/

def withTimer (st : PortState) : State := withPort base 0 { idlePort st with bringUpTimer := some 20 }

theorem test_witness_BringUpTransitions :
    (withPort base 0 (idlePort .down)).power = .running ∧ ((withPort base 0 (idlePort .down)).port 0).state = .down ∧
    ((withTimer .training).port 0).state = .training ∧ ((withTimer .training).port 0).bringUpTimer ≠ none ∧
    ((withTimer .awaitOpen).port 0).state = .awaitOpen ∧ ((withTimer .awaitOpen).port 0).bringUpTimer ≠ none ∧
    ((withPort base 0 (idlePort .disabled)).port 0).state = .disabled ∧
    ((withPort base 0 (idlePort .failed)).port 0).state = .failed := by decide

theorem test_bring_up :
    after (.partnerDetected 0) (withPort base 0 (idlePort .down)) (fun t =>
      decide ((t.port 0).state = .training) && decide ((t.port 0).bringUpTimer = some 20)) = true ∧
    after (.trainingComplete 0) (withTimer .training) (fun t =>
      decide ((t.port 0).state = .awaitOpen) && decide ((t.port 0).bringUpTimer = some 20)) = true ∧
    after (.trainingFailed 0) (withTimer .training) (fun t => decide (t = withTimer .training)) = true ∧
    after (.bringUpTimerExpiry 0) (withTimer .awaitOpen) (fun t => decide ((t.port 0).state = .failed)) = true := by
  decide

/-- A counted read of extent 3 AT_CHANNEL keeps a handover in DRAIN. -/
def counted : Entry := entry .read 9 .atChannel (.source src0)

theorem test_witness_LinkLostEffects :
    base.power = .running ∧ (base.port 0).state = .opened ∧
    ((withPort base 0 { openPort with state := .closing }).port 0).state = .closing ∧ base.active = none ∧
    atWork.power = .running ∧ (atWork.port 0).state = .opened ∧
    (atWork.setTracker 0 [counted]).active = some (handover .unmap .confirm) ∧
    (handover .unmap .confirm).phase = .confirm ∧ (handover .unmap .confirm).losing = 0 ∧
    (∃ e ∈ (atWork.setTracker 0 [counted]).tracker 0, e.extent = (handover .unmap .confirm).extent ∧
      ((handover .unmap .confirm).kind = .downgrade → e.kind = .write)) := by decide

theorem test_link_lost_retires_entries :
    after (.linkLost 0) (base.setTracker 0 [entry .read 1 .waitChannel (.source src0), counted]) (fun t =>
      decide (t.tracker 0 = [{ counted with state := .retiring }]) && decide ((t.port 0).state = .down)) = true := by
  decide

theorem test_witness_DroppedAndUndefinedPackets :
    base.hears 0 ∧ crcBad [0x05, 0x01, 0x07, 0, 0, 0, 0] = true ∧ undefinedInbound 0x08 ⟨0, []⟩ = true ∧
    undefinedInbound 0x06 ⟨1, [0, 0]⟩ = true := by
  simp only [State.hears]; decide

def oneRead : State := (withPort base 0 { openPort with grantedReads := 1 }).setTracker 0 [counted]

def moving : State := changing (handover .unmap .drain)

theorem test_witness_IntakeChecksInOrder :
    ((withPort base 0 (idlePort .awaitOpen)).port 0).state ≠ .opened ∧
    (oneRead.port 0).state = .opened ∧ (oneRead.port 0).granted .read ≤ countedOf .read (oneRead.tracker 0) ∧
    ((base.setTracker 0 [counted]).port 0).state = .opened ∧
    countedOf .read ((base.setTracker 0 [counted]).tracker 0) < ((base.setTracker 0 [counted]).port 0).granted .read ∧
    (∃ e, e ∈ (base.setTracker 0 [counted]).tracker 0 ∧ e.kind = .read ∧ e.opTag = 9 ∧ e.state ≠ .retiring) ∧
    (base.port 0).state = .opened ∧ countedOf .read (base.tracker 0) < (base.port 0).granted .read ∧
    (∀ e, e ∈ base.tracker 0 → e.kind = .read → e.opTag = 1 → e.state = .retiring) ∧
    base.lookup 0 .read (8 * 268435456) = .outOfWindow ∧ base.lookup 0 .read (2 * 268435456) = .unmapped ∧
    (working (.active { body with mapping := #v[some ⟨0, .read⟩, none, none, none] })).lookup 0 .write 0 = .noRight ∧
    (moving.port 0).state = .opened ∧ moving.lookup 0 .read 64 = .found 3 5 64 64 ∧
    moving.extent 3 = .changing body 41 ∧ moving.active = some (handover .unmap .drain) ∧
    (handover .unmap .drain).extent = 3 ∧ (handover .unmap .drain).losing = 0 ∧ (handover .unmap .drain).phase = .drain ∧
    (handover .unmap .drain).kind ≠ .downgrade := by
  refine ⟨by decide, by decide +kernel, by decide +kernel, by decide +kernel, by decide +kernel,
    ⟨counted, by decide⟩, by decide +kernel, by decide +kernel, ?_, by decide +kernel⟩
  intro e he
  exact absurd (show e ∈ ([] : List Entry) from he) List.not_mem_nil

theorem test_moving_request_is_refused :
    after (.read 0 (readPacket 1 64)) moving (fun t =>
      decide ((t.port 0).outbox = [.rdAbort 1 .moving none]) && decide (t.tracker 0 = [])) = true := by decide

/-- Extent 3 is the one extent that is not FREE. -/
theorem working_extent (x : Extent) (y : ExtentId) (b : ExtentBody) (h : ((working x).extent y).body? = some b) :
    y = 3 ∧ x.body? = some b := by
  by_cases e : y = 3
  · subst e; exact ⟨rfl, h⟩
  · have hf : (working x).extent y = .free := by
      have hv : (3 : Nat) ≠ y.val := fun hv => e (Fin.ext hv.symm)
      simp only [State.extent, working, Fin.getElem_fin, Vector.getElem_set, Vector.getElem_replicate]
      exact if_neg hv
    rw [hf] at h; cases h

theorem test_witness_LookupOutcomes :
    (base.port 0).windowSize ≤ 8 * 268435456 / 268435456 ∧
    7 * 268435456 / 268435456 < (base.port 0).windowSize ∧
    (∀ x b m, (base.extent x).body? = some b → b.mapping[(0 : PortId)] = some m →
      ¬ (m.windowBase ≤ 7 ∧ 7 < m.windowBase + b.length)) ∧
    (base.extent 3).body? = some body ∧ body.mapping[(0 : PortId)] = some ⟨0, .readWrite⟩ ∧
    (0 : Nat) ≤ 1 ∧ 1 < 0 + body.length ∧
    (∀ (y : ExtentId) (b' : ExtentBody) (m' : Mapping), y ≠ 3 → (base.extent y).body? = some b' →
      b'.mapping[(0 : PortId)] = some m' → ¬ (m'.windowBase ≤ 1 ∧ 1 < m'.windowBase + b'.length)) := by
  refine ⟨by decide, by decide +kernel, ?_, by decide +kernel, by decide +kernel, by decide +kernel,
    by decide, ?_⟩
  · intro x b m hb hm
    obtain ⟨_, h⟩ := working_extent _ _ _ hb
    cases h; cases hm; decide
  · intro y b' m' hy hb
    exact absurd (working_extent _ _ _ hb).1 hy

theorem test_witness_TargetResolution :
    base.layout.decode 0 = some src0 ∧ base.extent 3 = .active body ∧
    (copying (relocation 4 .copying 1 [])).extent 3 = .relocating body ∧
    (copying (relocation 4 .copying 1 [])).layout.decode (4 * 268435456 + 0) = some dst1 ∧
    (0 : Nat) / 64 < (relocation 4 .copying 1 []).cursor ∧
    (copying (relocation 4 .copying 1 [])).layout.decode 64 = some ⟨0, 1⟩ ∧
    (copying (relocation 4 .copying 1 [])).layout.decode (4 * 268435456 + 64) = some ⟨1, 1⟩ ∧
    (relocation 4 .copying 1 []).cursor ≤ 64 / 64 ∧
    finishing.extent 3 = .relocating body ∧ finishing.copyEngine = .running (relocation 4 .finishing 8388608 []) ∧
    (copying (relocation 4 (.abandoning .requested) 1 [])).copyEngine =
      .running (relocation 4 (.abandoning .requested) 1 []) := by decide

theorem test_write_below_the_cursor_is_dual :
    after (.write 0 (writePacket 1 0 1)) (copying (relocation 4 .copying 1 [])) (fun t =>
      decide ((t.tracker 0).map (·.resolution) = [.dual src0 dst1])) = true ∧
    after (.write 0 (writePacket 1 64 1)) (copying (relocation 4 .copying 1 [])) (fun t =>
      decide ((t.tracker 0).map (·.resolution) = [.source ⟨0, 1⟩])) = true := by decide

theorem test_witness_RequestsAccepted :
    base.hears 0 ∧ readFieldsOk (readPacket 1 0) = true ∧
    base.intake 0 .read (packetTag (readPacket 1 0)) (packetAddress (readPacket 1 0)) = .accepted 3 5 0 (.source src0) ∧
    writeFieldsOk (writePacket 1 0 1) = true ∧
    base.intake 0 .write (packetTag (writePacket 1 0 1)) (packetAddress (writePacket 1 0 1)) =
      .accepted 3 5 0 (.source src0) := by
  simp only [State.hears]; decide

theorem test_witness_RequestsRefused :
    base.hears 0 ∧ readFieldsOk (readPacket 1 0x20000000) = true ∧
    base.intake 0 .read (packetTag (readPacket 1 0x20000000)) (packetAddress (readPacket 1 0x20000000)) =
      .refused .unmapped ∧
    oneRead.hears 0 ∧ oneRead.intake 0 .read 1 0 = .refused .overrun ∧
    readFieldsOk (readPacket 1 32) = false ∧ readFieldsOk ⟨6, []⟩ = false ∧ writeFieldsOk (writePacket 1 0 0) = false ∧
    writeFieldsOk (writePacket 1 0x20000000 1) = true ∧
    base.intake 0 .write 1 0x20000000 = .refused .unmapped := by
  simp only [State.hears]; decide

def waitingWrite (h0 h1 : Option HalfData) : Entry :=
  { entry .write 3 .waitData (.source src0) with half0 := h0, half1 := h1, timer := some 50 }

theorem test_witness_WriteDataStored :
    (base.setTracker 0 [waitingWrite none none]).hears 0 ∧ wdataFieldsOk (dataPacket 3 0 1) = true ∧
    wdataFieldsOk (dataPacket 3 1 1) = true ∧
    (base.setTracker 0 [waitingWrite none none]).tracker 0 = [] ++ waitingWrite none none :: [] ∧
    (waitingWrite none none).opTag = packetTag (dataPacket 3 0 1) ∧ packetHalf (dataPacket 3 0 1) = 0 ∧
    packetHalf (dataPacket 3 1 1) = 1 ∧ (waitingWrite none none).half0 = none ∧ (waitingWrite none none).half1 = none ∧
    (waitingWrite (some 1) none).half1 = none ∧ (waitingWrite none (some 1)).half0 = none := by
  simp only [State.hears]; decide

theorem test_witness_OrphanDataDropped :
    base.hears 0 ∧ wdataFieldsOk (dataPacket 3 0 1) = true ∧ wdataFieldsOk (dataPacket 3 1 1) = true ∧
    base.tracker 0 = [] ∧
    (base.setTracker 0 [waitingWrite (some 1) none]).tracker 0 = [waitingWrite (some 1) none] ∧
    packetHalf (dataPacket 3 0 1) = 0 ∧ (waitingWrite (some 1) none).half0 ≠ none ∧
    packetHalf (dataPacket 3 1 1) = 1 ∧ (waitingWrite none (some 1)).half1 ≠ none := by
  simp only [State.hears]; decide

/-! ## Notices and configuration words -/

def noted : State := withNotices base 0 [3, 4, 5] 6 0

theorem test_witness_AcknowledgementsRemoveNotices :
    noted.hears 0 ∧ noted.active = none ∧
    (noted.noticeQueue 0).notices =
      [⟨3, .roleLost, 0⟩] ++ ({ sequence := 4, body := .roleLost, lostBefore := 0 } : Notice) :: [⟨5, .roleLost, 0⟩] ∧
    (∀ m ∈ [({ sequence := 3, body := .roleLost, lostBefore := 0 } : Notice)], m.sequence ≠ 4) ∧
    (∀ m ∈ (noted.noticeQueue 0).notices, m.sequence ≠ 6) := by
  simp only [State.hears]; decide

def confirming : State :=
  (atWork.setTracker 0 [counted]).setNoticeQueue 0 { notices := [pendingNote 7], next := 8, lost := 0 }

theorem test_witness_AcknowledgementConfirms :
    confirming.hears 0 ∧ confirming.active = some (handover .unmap .confirm) ∧
    (handover .unmap .confirm).phase = .confirm ∧ (handover .unmap .confirm).losing = 0 ∧
    (handover .unmap .confirm).pendingNotice = .sent 7 ∧
    (confirming.noticeQueue 0).notices = [] ++ pendingNote 7 :: [] ∧
    (∃ m ∈ [] ++ [pendingNote 7], m.body.pendingChange? = some (handover .unmap .confirm).change.id) ∧
    (∃ e ∈ confirming.tracker 0, e.extent = (handover .unmap .confirm).extent ∧
      ((handover .unmap .confirm).kind = .downgrade → e.kind = .write)) := by
  simp only [State.hears]; decide

theorem test_acknowledgement_starts_the_drain :
    after (.noticeAck 0 ⟨1, [7]⟩) confirming (fun t =>
      decide (t.active.map (fun h => (h.phase, h.confirmation, h.drainTimer)) =
        some (.drain, some .acknowledged, some 100)) && decide (t.active.map t.drainCount = some 1)) = true := by
  decide

def awaiting (accepted : Option Nat) : State := withPort base 0 { idlePort .awaitOpen with acceptance := accepted }

def awaitingRetiring : State := (awaiting (some 8)).setTracker 0 [{ counted with state := .retiring }]

theorem test_witness_OpenHandshake :
    (awaiting none).power = .running ∧ ((awaiting none).port 0).state = .awaitOpen ∧
    (8 : BitVec 64).toNat < 2048 ∧ (8 : BitVec 64).toNat = ((awaiting none).port 0).windowSize ∧
    (9 : BitVec 64).toNat ≠ ((awaiting none).port 0).windowSize ∧
    (base.port 0).state = .opened ∧ ((awaiting none).port 0).acceptance = none ∧
    ((awaiting (some 8)).port 0).state = .awaitOpen ∧ ((awaiting (some 8)).port 0).acceptance ≠ none ∧
    ((awaiting (some 8)).port 0).readOffer < (25 : BitVec 64).toNat ∧ (24 : BitVec 64).toNat < 32 ∧
    (24 : BitVec 64).toNat ≤ ((awaiting (some 8)).port 0).readOffer ∧
    (∀ e ∈ (awaiting (some 8)).tracker 0, e.state ≠ .retiring) ∧
    (awaitingRetiring.port 0).acceptance ≠ none ∧ (∃ e ∈ awaitingRetiring.tracker 0, e.state = .retiring) := by
  decide

theorem test_open_handshake :
    after (.windowAccept 0 8) (awaiting none) (fun t => decide ((t.port 0).acceptance = some 8)) = true ∧
    after (.windowAccept 0 0x10008) (awaiting none) (fun t =>
      decide ((t.port 0).outbox = [.configRefused 1 .value])) = true ∧
    after (.portOpen 0 24) (awaiting (some 8)) (fun t => decide ((t.port 0).state = .opened) &&
      decide ((t.port 0).grantedReads = 24) && decide ((t.port 0).grantedWrites = 16)) = true ∧
    after (.portOpen 0 25) (awaiting (some 8)) (fun t => decide ((t.port 0).outbox = [.configRefused 2 .value])) = true := by
  decide

def closing : State := withPort base 0 { openPort with state := .closing }

theorem test_witness_PortCloses :
    (base.setTracker 0 [counted]).power = .running ∧ ((base.setTracker 0 [counted]).port 0).state = .opened ∧
    (base.setTracker 0 [counted]).tracker 0 ≠ [] ∧ (base.setTracker 0 [counted]).active = none ∧
    (base.port 0).state = .opened ∧ base.tracker 0 = [] ∧ ((awaiting none).port 0).state = .awaitOpen ∧
    (closing.port 0).state = .closing ∧ closing.tracker 0 = [] := by decide

theorem test_close :
    after (.portClose 0 0) (base.setTracker 0 [counted]) (fun t => decide ((t.port 0).state = .closing)) = true ∧
    after (.closeComplete 0) closing (fun t => decide ((t.port 0).state = .awaitOpen)) = true := by decide

theorem test_witness_ConfigurationAnswers : base.hears 0 ∧ 5 < (6 : Byte).toNat := by
  simp only [State.hears]; decide

theorem test_offer_word :
    after (.configWrite 0 (.read 0)) base (fun t =>
      decide ((t.port 0).outbox = [.configData 0 0x10180008])) = true ∧
    after (.configWrite 0 (.read 4)) base (fun t =>
      decide ((t.port 0).outbox = [.configData 4 0x0100000010180140])) = true := by decide

/-! ## Channels -/

def candidate (r : Resolution) : State := base.setTracker 0 [entry .write 1 .waitChannel r]

theorem test_witness_AdmissionGrants :
    (candidate (.source src0)).power = .running ∧
    (candidate (.source src0)).nextGrant 0 = some (0 : PortId).castSucc ∧
    trackerCandidate ((candidate (.source src0)).tracker 0) 0 = some (entry .write 1 .waitChannel (.source src0)) ∧
    (candidate (.dual src0 dst1)).nextGrant 0 = some (0 : PortId).castSucc ∧
    trackerCandidate ((candidate (.dual src0 dst1)).tracker 0) 0 = some (entry .write 1 .waitChannel (.dual src0 dst1)) ∧
    dst1.channel ≠ 0 ∧
    (candidate (.dual src0 dst0)).nextGrant 0 = some (0 : PortId).castSucc ∧
    trackerCandidate ((candidate (.dual src0 dst0)).tracker 0) 0 = some (entry .write 1 .waitChannel (.dual src0 dst0)) ∧
    dst0.channel = 0 := by decide

theorem test_dual_write_takes_two_places :
    after (.admission 0) (candidate (.dual src0 dst1)) (fun t =>
      decide ((t.channel 0).queue.map (fun o => (o.line, o.part, o.slot)) = [(0, some .source, .reserved)]) &&
        decide ((t.channel 1).queue.map (fun o => (o.line, o.part, o.slot)) = [(0, some .destination, .reserved)])) = true := by
  decide

def onePair : List PairRecord := [pairOf 0 (.pair src0 .outstanding) .placeholder]

theorem test_witness_CopyPairAdmitted :
    (copying (relocation 4 .copying 1 onePair)).power = .running ∧
    (copying (relocation 4 .copying 1 onePair)).nextGrant 0 = some 4 ∧
    (copying (relocation 4 .copying 1 onePair)).copyCandidate =
      some ⟨relocation 4 .copying 1 onePair, ⟨0, 1⟩, ⟨1, 1⟩, true⟩ ∧
    (∀ y ∈ onePair, y.number ≠ 1) ∧ (∀ m : PairNumber, m < 1 → ∃ y ∈ onePair, y.number = m) ∧
    (copying (relocation 2 .copying 0 [])).nextGrant 0 = some 4 ∧
    (copying (relocation 2 .copying 0 [])).copyCandidate = some ⟨relocation 2 .copying 0 [], src0, dst0, true⟩ ∧
    (∀ m : PairNumber, ¬ m < 0) ∧
    (withChannelState (copying (relocation 4 .copying 0 [])) 0 .faulted).nextGrant 1 = some 4 ∧
    (withChannelState (copying (relocation 4 .copying 0 [])) 0 .faulted).copyCandidate =
      some ⟨relocation 4 .copying 0 [], src0, dst1, false⟩ := by decide

theorem test_copy_pair_takes_the_lowest_free_number :
    after (.copyPairAdmission 0) (copying (relocation 4 .copying 1 onePair)) (fun t =>
      decide (t.copyEngine.running?.map (fun r => (r.cursor, r.pairs.map (·.number))) = some (2, [0, 1])) &&
        decide ((t.channel 1).queue.map (·.action) = [.copyWrite none])) = true := by decide

/-- Port 0's read of tag 1 in CH0's queue behind a write to another line. -/
def reading (content : LineContent) : State :=
  let s := (base.setTracker 0 [entry .read 1 .atChannel (.source src0)]).setChannel 0
    { onlineChannel with memory := onlineChannel.memory.write 0 content }
  withQueue s 0 [operation (.writeFull 9) 1 1 none, operation .read 0 1 none]

theorem test_witness_ReadCompletes :
    (reading (.data 5)).memoryLaw ∧ (reading (.data 5)).hears 0 ∧ ((reading (.data 5)).channel 0).state = .online ∧
    ((reading (.data 5)).channel 0).queue = [operation (.writeFull 9) 1 1 none] ++ operation .read 0 1 none :: [] ∧
    (∀ o ∈ [operation (.writeFull 9) 1 1 none], o.line ≠ (operation .read 0 1 none).line) ∧
    (∀ o ∈ [operation (.writeFull 9) 1 1 none], ¬ (o.origin = .port 0 1 ∧ o.action = .read)) ∧
    (reading (.data 5)).tracker 0 = [] ++ entry .read 1 .atChannel (.source src0) :: [] ∧
    ((reading (.data 5)).channel 0).memory.read 0 = .data 5 ∧ (reading .poison).memoryLaw ∧
    ((reading .poison).channel 0).memory.read 0 = .poison := by
  simp only [State.memoryLaw, State.hears]; decide

theorem test_reads :
    after (.readComplete 0 0 1 .correctable) (reading (.data 5)) (fun t =>
      decide ((t.port 0).outbox = [.rdReturn 1 .corrected 5 5]) && decide ((t.channel 0).correctable = 1)) = true ∧
    after (.readComplete 0 0 1 .uncorrectable) (reading (.data 5)) (fun t =>
      decide ((t.port 0).outbox = [.rdReturn 1 .poisoned 5 0]) && decide ((t.channel 0).memory.read 0 = .poison) &&
        decide ((t.channel 0).firstError = some (.uncorrectable 0 (some 0) 0))) = true := by decide

/-- Port 0's write of tag 1 in CH0's queue, all of a DUAL entry or a part of it. -/
def writing (a : OpAction) (part : Option Part) (e : Entry) (content : LineContent) : State :=
  let s := (base.setTracker 0 [e]).setChannel 0 { onlineChannel with memory := onlineChannel.memory.write 0 content }
  withQueue s 0 [operation a 0 1 part]

def written : Entry := entry .write 1 .atChannel (.source src0)
def dualEntry (source : Option PartOutcome) (dest : Bool) : Entry :=
  { entry .write 1 .atChannel (.dual src0 dst0) with sourcePart := source, destPart := dest }

theorem test_witness_FullWriteHealsItsLine :
    (writing (.writeFull 9) none written .poison).memoryLaw ∧ (writing (.writeFull 9) none written .poison).hears 0 ∧
    ((writing (.writeFull 9) none written .poison).channel 0).state = .online ∧
    ((writing (.writeFull 9) none written .poison).channel 0).queue = [] ++ operation (.writeFull 9) 0 1 none :: [] ∧
    (writing (.writeFull 9) none written .poison).tracker 0 = [] ++ written :: [] := by
  simp only [State.memoryLaw, State.hears]; decide

theorem test_witness_PartialWriteMerges :
    (writing (.writePartial 1 9) none written (.data 7)).memoryLaw ∧
    (writing (.writePartial 1 9) none written (.data 7)).hears 0 ∧
    ((writing (.writePartial 1 9) none written (.data 7)).channel 0).state = .online ∧
    ((writing (.writePartial 1 9) none written (.data 7)).channel 0).queue =
      [] ++ operation (.writePartial 1 9) 0 1 none :: [] ∧
    (writing (.writePartial 1 9) none written (.data 7)).tracker 0 = [] ++ written :: [] ∧
    ((writing (.writePartial 1 9) none written (.data 7)).channel 0).memory.read 0 = .data 7 ∧
    (writing (.writePartial 1 9) none written .poison).memoryLaw ∧
    ((writing (.writePartial 1 9) none written .poison).channel 0).memory.read 0 = .poison := by
  simp only [State.memoryLaw, State.hears]; decide

theorem test_partial_write_keeps_the_other_bytes :
    after (.writeComplete 0 0 1 none .clean) (writing (.writePartial 2 0xBBAA) none written (.data 0xDDCC)) (fun t =>
      decide ((t.channel 0).memory.read 0 = .data 0xBBCC) &&
        decide ((t.port 0).outbox = [.wrAck 1 .done 5])) = true := by decide

theorem test_witness_DualAnsweredBySourcePart :
    (writing (.writeFull 9) (some .source) (dualEntry none true) (.data 0)).hears 0 ∧
    ((writing (.writeFull 9) (some .source) (dualEntry none true) (.data 0)).channel 0).state = .online ∧
    ((writing (.writeFull 9) (some .source) (dualEntry none true) (.data 0)).channel 0).queue =
      [] ++ operation (.writeFull 9) 0 1 (some .source) :: [] ∧
    (writing (.writeFull 9) (some .source) (dualEntry none true) (.data 0)).tracker 0 = [] ++ dualEntry none true :: [] ∧
    (dualEntry none true).destPart = true ∧ (dualEntry none false).destPart = false ∧
    (dualEntry none false).sourcePart = none ∧ (dualEntry (some .linePoisoned) false).sourcePart = some .linePoisoned ∧
    ((writing (.writePartial 1 9) (some .destination) (dualEntry (some .linePoisoned) false) .poison).channel 0).memory.read 0
      = .poison ∧
    (dualEntry none false).resolution = .dual src0 dst0 ∧ src0.channel = 0 ∧ dst0.channel = 0 ∧ dst1.channel ≠ 0 := by
  simp only [State.hears]; decide

theorem test_dual_answer_is_the_source_part :
    after (.writeComplete 0 0 1 (some .destination) .clean)
      (writing (.writeFull 9) (some .destination) (dualEntry (some .linePoisoned) false) (.data 0)) (fun t =>
        decide ((t.port 0).outbox = [.wrAck 1 .linePoisoned 5])) = true ∧
    after (.writeComplete 0 0 1 (some .source) .clean)
      (writing (.writeFull 9) (some .source) (dualEntry none false) (.data 0)) (fun t =>
        decide (t.tracker 0 = [dualEntry (some .done) false]) && decide ((t.port 0).outbox = [])) = true := by decide

/-- The pair of line 0 with its read at CH0 and its placeholder at CH1. -/
def pairInFlight : State :=
  withQueue (withQueue (copying (relocation 4 .copying 1 onePair)) 0 [copyOperation .copyRead 0 0]) 1
    [copyOperation (.copyWrite none) 0 0]

/-- The same pair with its placeholder supplied. -/
def pairSupplied : State :=
  withQueue (copying (relocation 4 .copying 1 [pairOf 0 (.pair src0 .completed) .supplied])) 1
    [copyOperation (.copyWrite (some (.data 6))) 0 0]

theorem test_witness_CopyPairCompletes :
    pairInFlight.power = .running ∧ pairInFlight.copyEngine = .running (relocation 4 .copying 1 onePair) ∧
    (relocation 4 .copying 1 onePair).pairs = [] ++ pairOf 0 (.pair src0 .outstanding) .placeholder :: [] ∧
    (pairInFlight.channel 0).state = .online ∧ (pairInFlight.channel 0).queue = [] ++ copyOperation .copyRead 0 0 :: [] ∧
    (pairInFlight.channel 0).memory.read 0 = .data 0 ∧
    pairSupplied.memoryLaw ∧ (pairSupplied.channel 1).state = .online ∧
    (pairSupplied.channel 1).queue = [] ++ copyOperation (.copyWrite (some (.data 6))) 0 0 :: [] ∧
    pairSupplied.copyEngine = .running (relocation 4 .copying 1 [pairOf 0 (.pair src0 .completed) .supplied]) ∧
    (relocation 4 .copying 1 []).cursor ≠ (relocation 4 .copying 1 []).lengthLines := by
  simp only [State.memoryLaw]; decide

theorem test_pair_completes :
    after (.copyReadComplete 0 0 .uncorrectable) pairInFlight (fun t =>
      decide ((t.channel 1).queue.map (·.action) = [.copyWrite (some .poison)]) &&
        decide (t.copyEngine.running?.map (·.poisonedLines) = some 1)) = true ∧
    after (.copyWriteComplete 1 0) pairSupplied (fun t =>
      decide (t.copyEngine.running?.map (·.pairs) = some []) && decide ((t.channel 1).memory.read 0 = .data 6)) = true := by
  decide

def detecting (used : Bool) (ff : Bool) : State :=
  let s := withChannelState base 0 (.detecting ff (some .i2c))
  { s with i2c := .inProgress 0x2A, layout := if used then smallLayout else { smallLayout with pool := .offline } }

theorem test_witness_DetectionAndFillEnd :
    (detecting true true).power = .running ∧ ((detecting true true).channel 0).state = .detecting true (some .i2c) ∧
    detectedSlots .noAnswer .empty .empty .empty = none ∧ detectedSlots (.module 17) .empty .empty .empty = none ∧
    detectedSlots .empty .empty .empty .empty = some #v[none, none, none, none] ∧
    slotCapacity #v[none, none, none, none] = 0 ∧
    detectedSlots (.module 16) .empty .empty (.module 128) = some #v[some 16, none, none, some 128] ∧
    0 < slotCapacity #v[some 16, none, none, some 128] ∧
    (detecting true false).layout.consumption 0 ≤ slotCapacity #v[some 16, none, none, some 128] ∧
    (detecting false false).layout.consumption 0 = 0 ∧
    ({ detecting true true with layout := { smallLayout with pool := .online 40 20 20 } } : State).layout.consumption 0 =
      20 ∧ slotCapacity #v[some 16, none, none, none] < 20 ∧
    (withChannelState base 1 .filling).power = .running ∧ ((withChannelState base 1 .filling).channel 1).state = .filling := by
  decide

theorem test_detection_and_fill :
    after (.detectionEnd 0 (.module 16) .empty .empty (.module 128)) (detecting true true) (fun t =>
      decide ((t.channel 0).state = .filling) && decide ((t.channel 0).fillKind = .poison) &&
        decide (t.i2c = .ready ⟨0x2A, .ok, [144, 0, 1]⟩)) = true ∧
    after (.detectionEnd 0 .empty .empty .empty .empty) (detecting true true) (fun t =>
      decide ((t.channel 0).state = .faulted) && decide (t.i2c = .ready ⟨0x2A, .refused .noModules, []⟩)) = true ∧
    after (.fillEnd 1) (withChannelState base 1 .filling) (fun t =>
      decide ((t.channel 1).state = .online) && decide ((t.channel 1).memory.read 77 = .data 0)) = true := by
  decide

theorem test_witness_ChannelFaults :
    base.power = .running ∧ (base.channel 0).state = .online ∧ ((withChannelState base 0 .filling).channel 0).state = .filling ∧
    ((detecting true false).channel 0).state = .detecting false (some .i2c) ∧ (base.channel 0).firstError = none ∧
    ((base.setChannel 0 { onlineChannel with firstError := some .fault }).channel 0).firstError ≠ none ∧
    ((withChannelState base 0 .offline).channel 0).state = .offline ∧
    ((withChannelState base 0 .faulted).channel 0).state = .faulted ∧
    (held true false).power = .inReset ∧ ((held true false).channel 0).state = .online := by decide

theorem test_fault_aborts_and_is_announced :
    after (.channelFault 0) (candidate (.source src0)) (fun t =>
      decide (t.tracker 0 = []) && decide ((t.channel 0).state = .faulted) &&
        decide ((t.port 0).outbox.length = 2) && decide ((t.noticeQueue 3).notices.map (·.body) = [.channelLost 0])) = true ∧
    after (.channelFault 0) (candidate (.dual ⟨1, 0⟩ src0)) (fun t =>
      decide ((t.tracker 0).map (·.resolution) = [.source ⟨1, 0⟩])) = true := by decide

/-! ## Changes -/

def unmappedBody : ExtentBody := { body with mapping := Vector.replicate 4 none }
def readBody : ExtentBody := { body with mapping := #v[some ⟨0, .read⟩, none, none, none] }

def waitingOn (b : ExtentBody) (op : ChangeOp) : State := { working (.active b) with changeQueue := [change op] }

def windowChange : State := withPort (waiting (.setWindow 1 0)) 1 (idlePort .awaitOpen)

theorem test_witness_ImmediateChangesCommit :
    (waiting (.create 4 2 6 .shared)).starts (change (.create 4 2 6 .shared)) ∧
    firstFailure ((waiting (.create 4 2 6 .shared)).createChecks 4 2 6) = none ∧
    (waitingOn unmappedBody (.retire 3)).starts (change (.retire 3)) ∧
    firstFailure ((waitingOn unmappedBody (.retire 3)).retireChecks 3) = none ∧
    (waiting (.map 3 1 6 .read)).starts (change (.map 3 1 6 .read)) ∧ (waiting (.map 3 1 6 .read)).activeAs 3 body ∧
    firstFailure ((waiting (.map 3 1 6 .read)).mapChecks 3 1 6 .read) = none ∧
    (waiting (.setShare 3 .shared)).starts (change (.setShare 3 .shared)) ∧
    firstFailure ((waiting (.setShare 3 .shared)).setShareChecks 3 .shared) = none ∧
    windowChange.starts (change (.setWindow 1 0)) ∧ firstFailure (windowChange.setWindowChecks 1 0) = none ∧
    (waiting (.setRights 3 0 .readWrite true true)).starts (change (.setRights 3 0 .readWrite true true)) ∧
    body.mapping[(0 : PortId)] = some ⟨0, .readWrite⟩ ∧
    firstFailure ((waiting (.setRights 3 0 .readWrite true true)).setRightsChecks 3 0 .readWrite) = none ∧
    (waitingOn readBody (.setRights 3 0 .readWrite true true)).starts (change (.setRights 3 0 .readWrite true true)) ∧
    (waitingOn readBody (.setRights 3 0 .readWrite true true)).activeAs 3 readBody ∧
    readBody.mapping[(0 : PortId)] = some ⟨0, .read⟩ ∧
    firstFailure ((waitingOn readBody (.setRights 3 0 .readWrite true true)).setRightsChecks 3 0 .readWrite) = none := by
  simp only [State.starts, State.activeAs]; decide

theorem test_immediate_changes :
    after .create (waiting (.create 4 2 6 .shared)) (fun t => decide (t.changeQueue = []) &&
      decide (t.extent 4 = .active ⟨2, 6, .shared, 0, Vector.replicate 4 none⟩)) = true ∧
    after .map (waiting (.map 3 1 6 .read)) (fun t =>
      decide (t.generationOf 3 = some 6) && decide ((t.noticeQueue 1).notices.map (·.body) = [.mapped 3 41 6 6 .read])) = true ∧
    after .map (waiting (.map 3 1 7 .read)) (fun t =>
      decide (t.completions.map (·.outcome) = [.rejected .windowSize])) = true ∧
    after .map (waiting (.map 3 1 0 .readWrite)) (fun t =>
      decide (t.completions.map (·.outcome) = [.rejected .shareRule])) = true := by decide

theorem test_more_immediate_changes :
    after .retire (waitingOn unmappedBody (.retire 3)) (fun t => decide (t.extent 3 = .free)) = true ∧
    after .setShare (waiting (.setShare 3 .shared)) (fun t =>
      decide (t.extent 3 = .active { body with share := .shared })) = true ∧
    after .setWindow windowChange (fun t => decide ((t.port 1).windowSize = 0)) = true ∧
    after .setRights (waitingOn readBody (.setRights 3 0 .readWrite true true)) (fun t =>
      decide (t.generationOf 3 = some 6) && decide ((t.noticeQueue 0).notices.map (·.body) = [.upgraded 3 41 6])) = true := by
  decide

def waitingOnRelocating (op : ChangeOp) : State :=
  { copying (relocation 4 .copying 0 []) with changeQueue := [change op] }

theorem test_witness_RejectedChangesChangeNothing :
    (waiting (.create 4 2 7 .shared)).starts (change (.create 4 2 7 .shared)) ∧
    firstFailure ((waiting (.create 4 2 7 .shared)).createChecks 4 2 7) = some .range ∧
    firstFailure ((waiting (.create 4 1 1 .shared)).createChecks 4 1 1) = some .overlapPool ∧
    firstFailure ((waiting (.retire 3)).retireChecks 3) = some .alreadyMapped ∧
    firstFailure ((waiting (.map 3 0 0 .read)).mapChecks 3 0 0 .read) = some .alreadyMapped ∧
    firstFailure ((waiting (.setShare 4 .shared)).setShareChecks 4 .shared) = some .extentState ∧
    firstFailure ((waiting (.setWindow 0 8)).setWindowChecks 0 8) = some .portOpen ∧
    firstFailure ((waiting (.setRights 3 1 .read false false)).setRightsChecks 3 1 .read) = some .notMapped ∧
    firstFailure ((waiting (.unmap 3 1 false false)).unmapChecks 3 1) = some .notMapped ∧
    firstFailure ((waiting (.transfer 3 0 1 7 .read false false)).transferChecks 3 0 1 7 .read) = some .windowSize ∧
    firstFailure ((waitingOnRelocating (.relocate 3 4)).relocateChecks 3 4) = some .extentBusy ∧
    (waitingOnRelocating (.map 3 1 0 .read)).extent 3 = .relocating body ∧ base.extent 4 = .free ∧
    atWork.extent 3 = .changing body 41 ∧ base.activeAs 3 body ∧ body.mapping[(1 : PortId)] = none ∧
    (base.port 1).windowSize < 7 + body.length := by
  simp only [State.starts, State.activeAs]; decide

def startsUnmap (confirm : Bool) : State := waiting (.unmap 3 0 confirm true)
def startsDowngrade : State := waiting (.setRights 3 0 .read true false)
def startsTransfer : State := waiting (.transfer 3 0 1 6 .readWrite true false)

theorem test_witness_HandoversStart :
    (startsUnmap true).starts (change (.unmap 3 0 true true)) ∧ (startsUnmap true).activeAs 3 body ∧
    firstFailure ((startsUnmap true).unmapChecks 3 0) = none ∧ ((startsUnmap true).port 0).state = .opened ∧
    ((startsUnmap true).noticeQueue 0).notices.length < 8 ∧
    8 ≤ ((withNotices (startsUnmap true) 0 [1, 2, 3, 4, 5, 6, 7, 8] 9 0).noticeQueue 0).notices.length ∧
    startsTransfer.starts (change (.transfer 3 0 1 6 .readWrite true false)) ∧ startsTransfer.activeAs 3 body ∧
    firstFailure (startsTransfer.transferChecks 3 0 1 6 .readWrite) = none ∧
    startsDowngrade.starts (change (.setRights 3 0 .read true false)) ∧
    firstFailure (startsDowngrade.setRightsChecks 3 0 .read) = none ∧ body.mapping[(0 : PortId)] = some ⟨0, .readWrite⟩ ∧
    (startsUnmap false).starts (change (.unmap 3 0 false true)) ∧
    (∃ e ∈ ((startsUnmap false).setTracker 0 [counted]).tracker 0, e.extent = 3) ∧
    (startsUnmap false).tracker 0 = [] ∧
    ((withPort (startsUnmap true) 0 (idlePort .awaitOpen)).port 0).state ≠ .opened := by
  simp only [State.starts, State.activeAs]; decide

theorem test_handovers_start :
    after .unmap (startsUnmap true) (fun t => decide (t.extent 3 = .changing body 41) &&
      decide (t.active.map (fun h => (h.phase, h.pendingNotice)) = some (.confirm, .sent 0))) = true ∧
    after .unmap (startsUnmap false) (fun t => decide (t.generationOf 3 = some 6) &&
      decide (t.completions.map (·.outcome) = [.doneHandover .notRequested])) = true ∧
    after .transfer (startsTransfer.setTracker 0 [counted]) (fun t => decide (t.active.isSome)) = true ∧
    after .setRights (withNotices startsDowngrade 0 [1, 2, 3, 4, 5, 6, 7, 8] 9 0) (fun t =>
      decide (t.active.map (·.pendingNotice) = some .held)) = true := by decide

theorem test_witness_RelocateStarts :
    (waiting (.relocate 3 4)).starts (change (.relocate 3 4)) ∧ (waiting (.relocate 3 4)).activeAs 3 body ∧
    firstFailure ((waiting (.relocate 3 4)).relocateChecks 3 4) = none ∧
    firstFailure ((waiting (.relocate 3 6)).relocateChecks 3 6) = none ∧
    firstFailure ((waiting (.relocate 3 7)).relocateChecks 3 7) = some .range := by
  simp only [State.starts, State.activeAs]; decide

theorem test_relocate_starts :
    after .relocate (waiting (.relocate 3 4)) (fun t => decide (t.extent 3 = .relocating body) &&
      decide (t.copyEngine = .running (relocation 4 .copying 0 []))) = true := by decide

def forced : Handover := { handover .unmap .drain with force := true }

theorem test_witness_HandoverTimersExpire :
    atWork.power = .running ∧ atWork.active = some (handover .unmap .confirm) ∧ atWork.extent 3 = .changing body 41 ∧
    (handover .unmap .confirm).change.op.extent? = some 3 ∧ (handover .unmap .confirm).change.op.recordPort = none ∧
    (handover .unmap .confirm).phase = .confirm ∧ (handover .unmap .confirm).confirmTimer ≠ none ∧
    (handover .unmap .drain).drainTimer ≠ none ∧ (handover .unmap .drain).force = false ∧
    (moving.setTracker 0 [counted]).countedEntries (handover .unmap .drain) ≠ 0 ∧
    (changing forced).active = some forced ∧ forced.phase = .drain ∧ forced.force = true ∧
    (∃ e ∈ ((changing forced).setTracker 0 [counted]).tracker forced.losing, e.extent = forced.extent ∧
      (forced.kind = .downgrade → e.kind = .write) ∧ e.waiting = false) := by decide

theorem test_timers_expire :
    after .confirmTimerExpiry atWork (fun t => decide (t.extent 3 = .active body) &&
      decide (t.completions.map (·.outcome) = [.confirmTimeout]) &&
      decide ((t.noticeQueue 0).notices.map (·.body) = [.restored 3 41 5])) = true ∧
    after .drainTimerExpiry (moving.setTracker 0 [counted]) (fun t =>
      decide (t.completions.map (·.outcome) = [.drainTimeout 1])) = true ∧
    after .drainTimerExpiry ((changing forced).setTracker 0 [counted, entry .read 2 .waitChannel (.source src0)]) (fun t =>
      decide (t.tracker 0 = [counted]) && decide (t.active.map (·.abortedCount) = some 1)) = true := by decide

def downgrading : State := changing { handover .downgrade .drain with change := change (.setRights 3 0 .read true false) }

theorem test_witness_HandoverCommits :
    moving.power = .running ∧ moving.active = some (handover .unmap .drain) ∧ (handover .unmap .drain).phase = .drain ∧
    (handover .unmap .drain).confirmation = some .notRequested ∧ moving.extent 3 = .changing body 41 ∧
    (handover .unmap .drain).change.op.extent? = some 3 ∧ (handover .unmap .drain).change.op.recordPort = none ∧
    moving.tracker 0 = [] ∧ (∃ e ∈ (moving.setTracker 0 [counted]).tracker 0, e.extent = 3) ∧
    downgrading.extent 3 = .changing body 41 ∧ body.mapping[(0 : PortId)] = some ⟨0, .readWrite⟩ ∧
    (∀ e ∈ (downgrading.setTracker 0 [counted]).tracker 0, e.extent = 3 → e.kind = .read) ∧
    (handover (.transfer 1 6 .read) .drain).kind = .transfer 1 6 .read := by decide

theorem test_handovers_commit :
    after .handoverCommit (downgrading.setTracker 0 [counted]) (fun t =>
      decide (t.extent 3 = .active { readBody with generation := 6 }) &&
        decide ((t.noticeQueue 0).notices.map (·.body) = [.downgraded 3 41 6])) = true ∧
    after .handoverCommit (changing (handover (.transfer 1 6 .read) .drain)) (fun t =>
      decide (t.extent 3 = .active { body with mapping := #v[none, some ⟨6, .read⟩, none, none], generation := 6 })) = true := by
  decide

def holding (sequences : List (BitVec 8)) : State :=
  withNotices (changing { handover .unmap .confirm with pendingNotice := .held, roomReported := true }) 0 sequences 1 2

theorem test_witness_PendingNoticeReoffered :
    (holding [253, 254, 255, 0]).power = .running ∧
    (holding [253]).active = some { handover .unmap .confirm with pendingNotice := .held, roomReported := true } ∧
    ((holding [253]).port 0).state = .opened ∧ ((holding [253]).noticeQueue 0).notices.length < 8 ∧
    8 ≤ ((holding [249, 250, 251, 252, 253, 254, 255, 0]).noticeQueue 0).notices.length := by decide

/-- Table 59, event 7. -/
theorem test_reoffer_carries_the_losses :
    after .pendingNoticeReoffer (holding [253, 254, 255, 0]) (fun t =>
      decide ((t.noticeQueue 0).notices.map (·.sequence) = [253, 254, 255, 0, 1]) &&
        decide (((t.noticeQueue 0).notices.getLast?.map (·.lostBefore)) = some 2) &&
        decide ((t.noticeQueue 0).next = 2) && decide ((t.noticeQueue 0).lost = 0)) = true := by decide

/-! ## Relocations -/

def fullCompletions (s : State) : State :=
  { s with completions := List.replicate 16 ⟨1, .retire, some 1, none, some .i2c, .doneImmediate, none⟩ }

def abandoning : State := copying (relocation 4 (.abandoning .destFault) 7 [])

def ending (s : State) : State := { s with copyEngine := .ending ⟨0, .relocationEnd, some 3, none, none, .relocationDone 1 false, some 6⟩ }

theorem test_witness_RelocationEnds :
    finishing.power = .running ∧ finishing.copyEngine = .running (relocation 4 .finishing 8388608 []) ∧
    finishing.extent 3 = .relocating body ∧ (∀ p : PortId, finishing.tracker p = []) ∧ finishing.placeFree = true ∧
    (fullCompletions finishing).placeFree = false ∧
    abandoning.copyEngine = .running (relocation 4 (.abandoning .destFault) 7 []) ∧
    abandoning.extent 3 = .relocating body ∧ abandoning.placeFree = true ∧
    (ending base).copyEngine = .ending ⟨0, .relocationEnd, some 3, none, none, .relocationDone 1 false, some 6⟩ ∧
    (ending base).placeFree = true ∧ (fullCompletions (ending base)).placeFree = false := by decide

theorem test_relocation_ends :
    after .relocationCommit finishing (fun t => decide (t.extent 3 = .active { body with poolBase := 4, generation := 6 }) &&
      decide (t.copyEngine = .idle)) = true ∧
    after .abandonEnd (fullCompletions abandoning) (fun t => decide (t.extent 3 = .active body) &&
      decide (t.completions.length = 16) && decide (t.copyEngine.code = 0x02)) = true ∧
    after .endRecordPost (ending base) (fun t => decide (t.copyEngine = .idle) && decide (t.completions.length = 1)) = true := by
  decide

/-! ## Requests -/

def nodeHolder : State := { base with holder := .port 2 }

def oneRecord : CompletionRecord := ⟨40, .retire, some 1, none, some .i2c, .doneImmediate, none⟩

theorem test_witness_ReadRequestsAnswer :
    base.receives .i2c ∧ base.receives (.inBand 3) ∧ extentOperand 63 = some 63 ∧ channelOperand 1 = some 1 ∧
    portOperand 3 = some 3 ∧ base.holder = pathHolder .i2c ∧
    ({ base with completions := [oneRecord] } : State).completions = oneRecord :: [] ∧ base.completions = [] := by
  simp only [State.receives]; decide

theorem test_reads_answer :
    after (.readLayout .i2c) base (fun t => decide (t.i2c = .ready ⟨0x12, .ok,
      [1, 8, 0, 0, 4, 0, 4, 0, 2, 4, 0, 0, 0, 0, 0xFF, 0xFF, 8, 0, 1, 0xFF, 0xFF, 0, 0]⟩)) = true ∧
    after (.readExtent .i2c 3) base (fun t =>
      match t.i2c with
      | .ready r => decide (r.data.take 8 = [1, 0, 0, 2, 0, 1, 5, 0]) && decide (r.data.length = 40)
      | _ => false) = true ∧
    after (.peekCompletion (.inBand 2)) { base with completions := [oneRecord] } (fun t =>
      decide ((t.port 2).outbox = [.mgmtResponse ⟨0x16, .ok, oneRecord.encode ++ [1]⟩]) &&
        decide (t.completions.length = 1)) = true := by decide

theorem test_reports_are_sent :
    after (.readStatus .i2c) atWork (fun t => match t.i2c with
      | .ready r => decide (r.data.head? = some 1)
      | _ => false) = true ∧
    after (.readPort .i2c 0 1) (withPort base 0 { openPort with crcDrops := 300 }) (fun t =>
      decide ((t.port 0).crcDrops = 0)) = true ∧
    after (.readChannel .i2c 0) base (fun t => match t.i2c with
      | .ready r => decide (r.data.head? = some 2)
      | _ => false) = true ∧
    after (.readErrors .i2c) base (fun t => match t.i2c with
      | .ready r => decide (r.data.length = 62)
      | _ => false) = true := by decide

theorem test_witness_RequestsTurnedAway :
    nodeHolder.receives .i2c ∧ nodeHolder.holder ≠ pathHolder .i2c ∧ base.receives (.inBand 0) ∧
    frameFieldsOk (.i2c []) = false ∧ framePath (.i2c []) = .i2c ∧ base.receives .i2c ∧
    frameFieldsOk (.inBand 1 ⟨2, [0x11, 64]⟩) = false ∧ framePath (.inBand 1 ⟨2, [0x11, 64]⟩) = .inBand 1 ∧
    base.receives (.inBand 1) ∧ (base.setSlot 0 (some 0x2A)).hears 0 ∧ (base.setSlot 0 (some 0x2A)).slot 0 = some 0x2A := by
  simp only [State.receives, State.hears]; decide

theorem test_bad_requests :
    after (.mgmtBadRequest (.i2c [])) base (fun t => decide (t.i2c = .ready ⟨0xFF, .badRequest, []⟩)) = true ∧
    after (.mgmtBadRequest (.inBand 1 ⟨2, [0x11, 64]⟩)) base (fun t =>
      decide ((t.port 1).outbox = [.mgmtResponse ⟨0x11, .badRequest, []⟩])) = true := by decide

def createOperands : SubmitOperands :=
  { kind := 1, presence := 0xE1, extent := 63, port := 0, secondPort := 0, windowBase := 0, rights := 0, poolBase := 1023,
    length := 1024, shareMode := 2, windowSize := 0, confirm := 0, force := 0 }

def queued (n : Nat) : State := { base with changeQueue := List.replicate n (change (.retire 3)) }

theorem test_witness_QueueRequests :
    base.manages .i2c ∧ createOperands.change? = some (.create 63 1023 1024 .shared) ∧
    ({ createOperands with presence := 0xE0 } : SubmitOperands).change? = none ∧
    ({ createOperands with length := 1025 } : SubmitOperands).change? = none ∧ (queued 7).changeQueue.length < 8 ∧
    8 ≤ (queued 8).changeQueue.length ∧ ({ base with completions := [oneRecord] } : State).completions = oneRecord :: [] ∧
    atWork.manages .i2c ∧ atWork.active = some (handover .unmap .confirm) ∧
    (handover .unmap .confirm).change.id = (41 : BitVec 16).toNat ∧ atWork.extent 3 = .changing body 41 ∧
    (handover .unmap .confirm).change.op.extent? = some 3 ∧ (handover .unmap .confirm).change.op.recordPort = none ∧
    (queued 1).active = none ∧ (queued 1).changeQueue = [] ++ change (.retire 3) :: [] ∧
    (change (.retire 3)).id = (41 : BitVec 16).toNat ∧ (queued 1).placeFree = true ∧
    (fullCompletions (queued 1)).placeFree = false ∧ (∀ ch ∈ (queued 1).changeQueue, ch.id ≠ (42 : BitVec 16).toNat) := by
  simp only [State.manages, State.receives]; decide

theorem test_queue_requests :
    after (.submit .i2c createOperands) { base with nextChangeId := 65535 } (fun t =>
      decide (t.nextChangeId = 1) && decide (t.i2c = .ready ⟨0x20, .ok, [0xFF, 0xFF]⟩) &&
        decide (t.changeQueue = [⟨65535, .i2c, .create 63 1023 1024 .shared⟩])) = true ∧
    after (.popCompletion .i2c) { base with completions := [oneRecord] } (fun t => decide (t.completions = []) &&
      decide (t.i2c = .ready ⟨0x22, .ok, oneRecord.encode ++ [0]⟩)) = true ∧
    after (.cancel .i2c 41) (queued 1) (fun t => decide (t.changeQueue = []) &&
      decide (t.completions.map (·.outcome) = [.cancelled .queued])) = true ∧
    after (.cancel .i2c 41) atWork (fun t => decide (t.extent 3 = .active body) &&
      decide (t.completions.map (·.outcome) = [.cancelled .confirm])) = true := by decide

theorem test_witness_RelocationAbortedAndErrorsCleared :
    (copying (relocation 4 .copying 0 [])).manages .i2c ∧ extentOperand 3 = some 3 ∧
    (copying (relocation 4 .copying 0 [])).copyEngine = .running (relocation 4 .copying 0 []) ∧
    finishing.manages .i2c ∧ finishing.copyEngine = .running (relocation 4 .finishing 8388608 []) ∧
    base.manages .i2c ∧ base.copyEngine = .idle := by
  simp only [State.manages, State.receives]; decide

theorem test_abort_and_clear :
    after (.abortRelocation .i2c 3) (copying (relocation 4 .copying 0 [])) (fun t =>
      decide (t.copyEngine = .running (relocation 4 (.abandoning .requested) 0 []))) = true ∧
    after (.clearErrors .i2c 2) (base.setChannel 1 { onlineChannel with firstError := some .fault }) (fun t =>
      decide ((t.channel 1).firstError = none)) = true ∧
    after (.clearInterrupted .i2c) { base with interrupted := some ⟨none, none, 1, 0⟩ } (fun t =>
      decide (t.interrupted = none)) = true := by decide

def poolOff (ranges : List LayoutRange) : State := { base with layout := ⟨.offline, ranges, false⟩, extents := State.reset.extents }

def twoRanges : List LayoutRange := [⟨4, .ch0, none, none⟩, ⟨8, .ch1, none, none⟩]

theorem test_witness_LayoutEdited :
    nodeHolder.receives .i2c ∧ nodeHolder.holder ≠ pathHolder .i2c ∧ base.receives .i2c ∧ base.layout.pool ≠ .offline ∧
    base.holder = pathHolder .i2c ∧ (poolOff twoRanges).receives .i2c ∧ (poolOff twoRanges).layout.pool = .offline ∧
    (poolOff twoRanges).layout.ranges.length < (3 : Byte).toNat ∧ 7 < (8 : Byte).toNat ∧
    (2 : Byte).toNat ≤ (poolOff twoRanges).layout.ranges.length ∧ 1024 < (1025 : BitVec 16).toNat ∧
    (1024 : BitVec 16).toNat ≤ 1024 ∧ 2 < (3 : Byte).toNat := by
  simp only [State.receives]; decide

theorem test_layout_edits :
    after (.setLayout .i2c 2 1024 2) (poolOff twoRanges) (fun t =>
      decide (t.layout.ranges = twoRanges ++ [⟨1024, .both, none, none⟩])) = true ∧
    after (.setLayout .i2c 0 6 1) (poolOff twoRanges) (fun t =>
      decide (t.layout.ranges = [⟨6, .ch1, none, none⟩, ⟨8, .ch1, none, none⟩])) = true ∧
    after (.clearLayout .i2c) (poolOff twoRanges) (fun t => decide (t.layout.ranges = [])) = true := by decide

theorem test_witness_PoolCommitAndTeardown :
    base.manages .i2c ∧ base.layout.pool ≠ .offline ∧ (poolOff []).manages .i2c ∧ (poolOff []).layout.ranges = [] ∧
    (poolOff twoRanges).manages .i2c ∧ (poolOff twoRanges).layout.pool = .offline ∧
    (poolOff twoRanges).commitRefusal = none ∧
    (poolOff twoRanges).layout.ranges.getLast? = some ⟨8, .ch1, none, none⟩ ∧ base.extent 3 ≠ .free ∧
    ({ base with extents := State.reset.extents } : State).manages .i2c ∧
    (∀ x : ExtentId, ({ base with extents := State.reset.extents } : State).extent x = .free) := by
  simp only [State.manages, State.receives]; decide

theorem test_pool_commit_and_teardown :
    after (.poolCommit .i2c) (poolOff twoRanges) (fun t => decide (t.layout = smallLayout) &&
      decide (t.i2c = .ready ⟨0x28, .ok, [8, 0, 4, 0, 4, 0]⟩)) = true ∧
    after (.poolTeardown .i2c) { base with extents := State.reset.extents } (fun t =>
      decide (t.layout = ⟨.offline, twoRanges, false⟩)) = true := by decide

theorem test_witness_ChannelRequests :
    base.manages .i2c ∧ channelOperand 1 = some 1 ∧ (withChannelState base 1 .offline).manages .i2c ∧
    ((withChannelState base 1 .offline).channel 1).state = .offline ∧
    ((withChannelState base 1 .faulted).channel 1).state = .faulted ∧ (base.channel 1).state = .online ∧
    ((withChannelState base 1 .filling).channel 1).state = .filling ∧ 0 < base.layout.consumption 1 ∧
    (poolOff []).layout.consumption 1 = 0 ∧ (poolOff []).manages .i2c ∧ ((poolOff []).channel 1).state = .online ∧
    ((withChannelState (poolOff []) 1 (.detecting true none)).channel 1).state = .detecting true none := by
  simp only [State.manages, State.receives]; decide

theorem test_channel_requests :
    after (.channelOnline .i2c 1) (withChannelState base 1 .faulted) (fun t =>
      decide ((t.channel 1).state = .detecting true (some .i2c)) && decide (t.i2c = .inProgress 0x2A)) = true ∧
    after (.channelOffline .i2c 1) (poolOff []) (fun t => decide ((t.channel 1).state = .offline) &&
      decide ((t.channel 1).capacity = 0)) = true := by decide

theorem test_witness_PortRequests :
    base.manages .i2c ∧ portOperand 0 = some 0 ∧ portOperand 3 = some 3 ∧ (base.port 0).state ≠ .disabled ∧
    (withPort base 0 (idlePort .disabled)).manages .i2c ∧
    ((withPort base 0 (idlePort .disabled)).port 0).state = .disabled := by
  simp only [State.manages, State.receives]; decide

theorem test_port_requests :
    after (.portEnable .i2c 0) (withPort base 0 (idlePort .disabled)) (fun t => decide ((t.port 0).state = .down)) = true ∧
    after (.portDisable .i2c 0) base (fun t => decide ((t.port 0).state = .disabled)) = true ∧
    after (.portReset .i2c 0) (base.setTracker 0 [counted]) (fun t => decide ((t.port 0).state = .down) &&
      decide (retiringOf (t.tracker 0) = 1)) = true := by decide

theorem test_witness_OffersAndLimits :
    base.manages .i2c ∧ portOperand 1 = some 1 ∧ (1 : Byte).toNat ≤ (base.port 1).readOffer ∧
    (23 : Byte).toNat < (base.port 1).grantedReads ∧ (base.port 1).state = .opened ∧
    (base.port 1).grantedReads ≤ (24 : Byte).toNat ∧ (base.port 1).grantedWrites ≤ (16 : Byte).toNat ∧
    24 < (25 : Byte).toNat ∧ 60000 < (60001 : BitVec 16).toNat ∧ (60000 : BitVec 16).toNat ≤ 60000 ∧
    (10000 : BitVec 16).toNat ≤ 10000 ∧ (250 : Byte).toNat ≤ 250 ∧ (1000 : BitVec 16).toNat ≤ 1000 := by
  simp only [State.manages, State.receives]; decide

theorem test_offers_and_limits :
    after (.setOffer .i2c 1 23 16) base (fun t => decide (t.i2c = .ready ⟨0x2F, .refused .belowGrant, []⟩)) = true ∧
    after (.setOffer .i2c 1 1 1) (withPort base 1 (idlePort .awaitOpen)) (fun t => decide ((t.port 1).readOffer = 1)) = true ∧
    after (.setTimers .i2c 60000 0 250 1000) base (fun t => decide (t.limits = ⟨60000, 100, 250, 1000⟩)) = true ∧
    after (.setPreserve .i2c 1) base (fun t => t.layout.preserve) = true := by decide

theorem test_witness_ManagerRole :
    ({ base with holder := .none } : State).receives .i2c ∧ ({ base with holder := .none } : State).holder = .none ∧
    base.receives .i2c ∧ base.holder = .i2c ∧ nodeHolder.receives .i2c ∧ nodeHolder.holder = .port 2 ∧ (15 : Byte).toNat ≤ 15 ∧
    (withPort base 0 (idlePort .awaitOpen)).receives (.inBand 0) ∧
    ((withPort base 0 (idlePort .awaitOpen)).port 0).state ≠ .opened ∧ base.receives (.inBand 0) ∧
    ({ base with eligible := 14 } : State).eligible.getLsbD (0 : PortId).val = false ∧
    base.eligible.getLsbD (0 : PortId).val = true ∧ ({ nodeHolder with holder := .port 2 } : State).manages (.inBand 2) := by
  simp only [State.manages, State.receives]; decide

theorem test_role :
    after (.claim .i2c) { base with holder := .none } (fun t => decide (t.holder = .i2c)) = true ∧
    after (.release (.inBand 2)) nodeHolder (fun t => decide (t.holder = .none)) = true ∧
    after (.setEligible .i2c 11) nodeHolder (fun t => decide (t.holder = .none) && decide (t.eligible = 11)) = true := by
  decide

/-! ## Clauses of the statements, one by one -/

def faults (c : Instr) (s : State) : Bool :=
  match exec c s with
  | .fault _ => true
  | _ => false

/-- Extent 3 mapped on a pool whose layout lists no range. -/
def unranged : State := { base with layout := { smallLayout with ranges := [] } }

/-- A relocation whose target range no range holds. -/
def unrangedTarget : State := copying (relocation 8 .finishing 8388608 [])

theorem test_unranged_lines_fault :
    unranged.lookup 0 .read 64 = .found 3 5 64 64 ∧ unranged.layout.decode 64 = none ∧
    faults (.read 0 (readPacket 1 64)) unranged = true ∧ faults (.write 0 (writePacket 1 64 1)) unranged = true ∧
    unrangedTarget.lookup 0 .read 64 = .found 3 5 64 64 ∧ unrangedTarget.layout.decode (8 * 268435456 + 64) = none ∧
    unrangedTarget.extent 3 = .relocating body ∧ faults (.read 0 (readPacket 1 64)) unrangedTarget = true := by decide

def inReset : State := { base with power := .inReset }

theorem test_witness_NothingWhilePowerIsOff_i2c :
    inReset.power ≠ .running ∧ ({ base with power := .off } : State).power ≠ .running := by decide

theorem test_i2c_transactions :
    inReset.i2cRead 0x58 0 = none ∧ inReset.i2cTakesWrite 0x58 = false ∧ base.i2cRead 0x59 0 = none ∧
    base.i2cRead 0x58 0 = some 0x00 ∧ base.i2cRead 0x58 1 = some 0xFF ∧ base.i2cTakesWrite 0x58 = true ∧
    ({ base with i2c := .inProgress 0x2A } : State).i2cRead 0x58 0 = some 0x01 ∧
    ({ base with i2c := .inProgress 0x2A } : State).i2cRead 0x58 7 = some 0xFF ∧
    ({ base with i2c := .inProgress 0x2A } : State).i2cTakesWrite 0x58 = false ∧
    (List.range 8).map (({ base with i2c := .ready ⟨0x38, .held, [3]⟩ } : State).i2cRead 0x58) =
      [0x02, 0x38, 0x03, 0x00, 0x01, 0x03, crc8 [0x38, 0x03, 0x00, 0x01, 0x03], 0xFF].map some := by decide

theorem test_witness_ReadRequestsAnswer_i2c :
    base.power = .running ∧ (0x58 : BitVec 7).toNat = 0x58 + base.straps.addr.toNat ∧
    (0x5B : BitVec 7).toNat = 0x58 + ({ base with straps := ⟨3, 0⟩ } : State).straps.addr.toNat ∧ base.i2c = .empty ∧
    ({ base with i2c := .inProgress 0x2A } : State).i2c = .inProgress 0x2A ∧
    ({ base with i2c := .ready ⟨0x38, .held, [3]⟩ } : State).i2c = .ready ⟨0x38, .held, [3]⟩ := by decide

theorem test_witness_BridgeResetKeepsOrClears_lines :
    (withPreserve (reading (.data 5))).power = .running ∧ (withPreserve (reading (.data 5))).layout.preserve = true ∧
    (withPreserve (reading (.data 5))).memoryLaw ∧ ((withPreserve (reading (.data 5))).channel 0).state = .online ∧
    (∀ o ∈ ((withPreserve (reading (.data 5))).channel 0).queue, o.line ≠ 2) := by
  simp only [State.memoryLaw]; decide

/-! ### Received bytes -/

/-- A packet of a kind, a length field and a body, with its CRC. -/
def packetOf (kind len : Byte) (body : List Byte) : List Byte :=
  kind :: len :: (body ++ le 4 (crc32 (kind :: len :: body)).toNat)

theorem test_witness_DroppedAndUndefinedPackets_kinds :
    crcBad (packetOf 0x01 6 (readPacket 7 64).body) = false ∧ crcBad (packetOf 0x05 1 [0x38]) = false ∧
    crcBad (packetOf 0x06 1 [5]) = false ∧ crcBad (packetOf 0x07 9 (2 :: le 8 24)) = false ∧
    crcBad (packetOf 0x06 2 [5, 0]) = false ∧ crcBad (packetOf 0x07 1 [5]) = false ∧ crcBad (packetOf 0x00 0 []) = false ∧
    crcBad (packetOf 0x08 0 []) = false ∧ (le 4 (crc32 [0x08, 0x00]).toNat).length = 4 := by decide +kernel

theorem test_packets_name_their_commands :
    packetCommand 2 (packetOf 0x01 6 (readPacket 7 64).body) = .read 2 (readPacket 7 64) ∧
    packetCommand 2 (packetOf 0x02 14 (writePacket 7 64 1).body) = .write 2 (writePacket 7 64 1) ∧
    packetCommand 2 (packetOf 0x03 34 (dataPacket 7 1 0xAA).body) = .wdata 2 (dataPacket 7 1 0xAA) ∧
    packetCommand 2 (packetOf 0x04 1 [9]) = .noticeAck 2 ⟨1, [9]⟩ ∧
    packetCommand 2 (packetOf 0x05 1 [0x38]) = .claim (.inBand 2) ∧
    packetCommand 2 (packetOf 0x06 1 [5]) = .configWrite 2 (.read 5) ∧
    packetCommand 2 (packetOf 0x07 9 (4 :: le 8 0x0102030405060708)) = .configWrite 2 (.write 4 0x0102030405060708) ∧
    packetCommand 2 (packetOf 0x07 9 (1 :: le 8 8)) = .windowAccept 2 8 ∧
    packetCommand 2 (packetOf 0x07 9 (2 :: le 8 24)) = .portOpen 2 24 ∧
    packetCommand 2 (packetOf 0x07 9 (3 :: le 8 0)) = .portClose 2 0 := by decide +kernel

theorem test_undefined_packets_and_drops :
    packetCommand 1 (packetOf 0x08 0 []) = .undefinedPacket 1 0x08 ⟨0, []⟩ ∧
    packetCommand 1 (packetOf 0x00 0 []) = .undefinedPacket 1 0x00 ⟨0, []⟩ ∧
    packetCommand 1 (packetOf 0x06 2 [5, 0]) = .undefinedPacket 1 0x06 ⟨2, [5, 0]⟩ ∧
    packetCommand 1 (packetOf 0x07 1 [5]) = .undefinedPacket 1 0x07 ⟨1, [5]⟩ ∧
    packetCommand 1 [0x05, 0x01, 0x07, 0, 0, 0, 0] = .packetCrcDrop 1 [0x05, 0x01, 0x07, 0, 0, 0, 0] := by decide +kernel

/-- A request frame on the I2C path with its check byte. -/
def i2cFrame (kind : Byte) (ops : List Byte) : MgmtFrame :=
  let c := kind :: BitVec.ofNat 8 ops.length :: ops
  .i2c (c ++ [crc8 c])

/-- A MGMT_REQUEST of port 1. -/
def inBandFrame (kind : Byte) (ops : List Byte) : MgmtFrame :=
  .inBand 1 ⟨BitVec.ofNat 8 (ops.length + 1), kind :: ops⟩

theorem test_frames_name_their_requests :
    frameCommand (i2cFrame 0x21 [0x29, 0x01]) = .cancel .i2c 0x0129 ∧
    frameCommand (i2cFrame 0x30 [0x10, 0x27, 0x64, 0x00, 0x14, 0x32, 0x00]) = .setTimers .i2c 10000 100 20 50 ∧
    frameCommand (inBandFrame 0x26 [2, 0x00, 0x04, 2]) = .setLayout (.inBand 1) 2 1024 2 ∧
    frameCommand (inBandFrame 0x20 [1, 0xE1, 0, 63, 0, 0, 0, 0, 0, 0xFF, 0x03, 0x00, 0x04, 2, 0, 0, 0, 0]) =
      .submit (.inBand 1) createOperands ∧
    frameCommand (i2cFrame 0x13 [3, 1]) = .readPort .i2c 3 1 ∧
    frameCommand (inBandFrame 0x11 [64]) = .mgmtBadRequest (inBandFrame 0x11 [64]) ∧
    frameCommand (.i2c [0x38, 0x00, 0x00]) = .mgmtBadRequest (.i2c [0x38, 0x00, 0x00]) := by decide +kernel

/-! ### Intake and configuration -/

theorem test_witness_IntakeChecksInOrder_resolutions :
    base.lookup 0 .read 0 = .found 3 5 0 0 ∧ base.extent 3 = .active body ∧
    base.resolve .read 3 0 0 = some (.source src0) ∧ (base.channel src0.channel).state = .online ∧
    finishing.lookup 0 .read 0 = .found 3 5 0 0 ∧ finishing.resolve .read 3 0 0 = some (.dest dst1) ∧
    (copying (relocation 4 .copying 1 [])).resolve .write 3 0 0 = some (.dual src0 dst1) ∧
    (changing (handover .downgrade .drain)).lookup 0 .read 0 = .found 3 5 0 0 ∧
    (changing (handover .downgrade .drain)).extent 3 = .changing body 41 ∧
    (changing (handover .downgrade .drain)).active = some (handover .downgrade .drain) ∧
    (handover .downgrade .drain).kind = .downgrade := by decide

theorem test_channel_check :
    base.intake 0 .read 1 0 = .accepted 3 5 0 (.source src0) ∧
    (withChannelState base 0 .faulted).intake 0 .read 1 0 = .refused .channelDown ∧
    finishing.intake 0 .read 1 0 = .accepted 3 5 0 (.dest dst1) ∧
    (withChannelState finishing 1 .faulted).intake 0 .read 1 0 = .refused .channelDown ∧
    (copying (relocation 4 .copying 1 [])).intake 0 .write 1 0 = .accepted 3 5 0 (.dual src0 dst1) ∧
    (withChannelState (copying (relocation 4 .copying 1 [])) 1 .offline).intake 0 .write 1 0 =
      .accepted 3 5 0 (.source src0) ∧
    (withChannelState (copying (relocation 4 .copying 1 [])) 0 .faulted).intake 0 .write 1 0 = .refused .channelDown ∧
    (changing (handover .downgrade .drain)).intake 0 .read 1 0 = .accepted 3 5 0 (.source src0) ∧
    (changing (handover .downgrade .drain)).intake 0 .write 1 0 = .refused .moving := by decide

def erring (e : Option PortError) : State :=
  withPort base 0 { openPort with crcDrops := 0x1234, protocolErrors := 5, orphanData := 6, error := e }

theorem test_witness_ConfigurationAnswers_states :
    (awaiting (some 8)).hears 0 ∧ ((awaiting (some 8)).port 0).state = .awaitOpen ∧ base.hears 0 ∧
    (base.port 0).state = .opened ∧ closing.hears 0 ∧ (closing.port 0).state = .closing ∧
    (erring (some ⟨.tagInUse, some 3⟩)).hears 0 ∧ (erring (some ⟨.malformed, none⟩)).hears 0 ∧ (erring none).hears 0 := by
  simp only [State.hears]; decide

theorem test_configuration_words :
    after (.configWrite 0 (.read 1)) (awaiting (some 8)) (fun t => decide ((t.port 0).outbox = [.configData 1 0x10008])) = true ∧
    after (.configWrite 0 (.read 3)) closing (fun t => decide ((t.port 0).outbox = [.configData 3 1])) = true ∧
    after (.configWrite 0 (.read 4)) (closing.setTracker 0 [counted, { counted with state := .retiring }]) (fun t =>
      decide ((t.port 0).outbox = [.configData 4 0x0101000110180150])) = true ∧
    after (.configWrite 0 (.read 5)) (erring none) (fun t => decide ((t.port 0).outbox = [.configData 5 0x06051234])) = true ∧
    after (.configWrite 0 (.write 2 24)) (awaiting (some 8)) (fun t => decide ((t.port 0).state = .opened)) = true := by
  decide

/-! ### Completions, for an entry AT_CHANNEL and for one that retires on a port gone DOWN -/

def retired (e : Entry) : Entry := { e with state := .retiring }

def readingRetired : State := (withPort (reading (.data 5)) 0 (idlePort .down)).setTracker 0
  [retired (entry .read 1 .atChannel (.source src0))]

def writingRetired (a : OpAction) (part : Option Part) (e : Entry) : State :=
  (withPort (writing a part e .poison) 0 (idlePort .down)).setTracker 0 [retired e]

theorem test_witness_ReadCompletes_entries :
    (reading (.data 5)).completes 0 (entry .read 1 .atChannel (.source src0)) ∧
    readingRetired.completes 0 (retired (entry .read 1 .atChannel (.source src0))) ∧ readingRetired.memoryLaw ∧
    readingRetired.tracker 0 = [] ++ retired (entry .read 1 .atChannel (.source src0)) :: [] := by
  simp only [State.completes, State.hears, State.memoryLaw]; decide

theorem test_witness_FullWriteHealsItsLine_entries :
    (writing (.writeFull 9) none written .poison).completes 0 written ∧
    (writingRetired (.writeFull 9) none written).completes 0 (retired written) ∧
    (writingRetired (.writeFull 9) none written).memoryLaw := by
  simp only [State.completes, State.hears, State.memoryLaw]; decide

theorem test_witness_PartialWriteMerges_entries :
    (writing (.writePartial 1 9) none written (.data 7)).completes 0 written ∧
    (writingRetired (.writePartial 1 9) none written).completes 0 (retired written) ∧
    ((writingRetired (.writePartial 1 9) none written).channel 0).memory.read 0 = .poison := by
  simp only [State.completes, State.hears]; decide

theorem test_witness_DualAnsweredBySourcePart_entries :
    (writing (.writeFull 9) (some .source) (dualEntry none true) (.data 0)).completes 0 (dualEntry none true) ∧
    (writing (.writeFull 9) (some .source) (dualEntry none true) (.data 0)).memoryLaw ∧
    (writingRetired (.writeFull 9) (some .destination) (dualEntry (some .aborted) false)).completes 0
      (retired (dualEntry (some .aborted) false)) := by
  simp only [State.completes, State.hears, State.memoryLaw]; decide

theorem test_retired_entries_leave_in_silence :
    after (.readComplete 0 0 1 .clean) readingRetired (fun t =>
      decide (t.tracker 0 = []) && decide ((t.port 0).outbox = [])) = true ∧
    after (.writeComplete 0 0 1 none .clean) (writingRetired (.writeFull 9) none written) (fun t =>
      decide (t.tracker 0 = []) && decide ((t.port 0).outbox = []) &&
        decide ((t.channel 0).memory.read 0 = .data 9)) = true ∧
    after (.writeComplete 0 0 1 (some .destination) .clean)
      (writingRetired (.writeFull 9) (some .destination) (dualEntry (some .aborted) false)) (fun t =>
        decide (t.tracker 0 = []) && decide ((t.port 0).outbox = [])) = true := by decide

/-- The last pair of a relocation with its placeholder supplied. -/
def lastPair : State :=
  withQueue (copying (relocation 4 .copying 8388608 [pairOf 0 (.pair src0 .completed) .supplied])) 1
    [copyOperation (.copyWrite (some (.data 6))) 0 0]

theorem test_witness_CopyPairCompletes_commit :
    pairInFlight.memoryLaw ∧ (∀ src, (pairOf 0 (.pair src0 .completed) .supplied).form ≠ .pair src .outstanding) ∧
    lastPair.memoryLaw ∧ lastPair.extent 3 = .relocating body ∧ (∀ p : PortId, lastPair.tracker p = []) ∧
    (relocation 4 .copying 8388608 []).cursor = (relocation 4 .copying 8388608 []).lengthLines ∧
    lastPair.placeFree = true ∧ (fullCompletions lastPair).placeFree = false ∧
    (∃ e ∈ (lastPair.setTracker 0 [counted]).tracker 0, e.extent = 3 ∧ ∀ a, e.resolution ≠ .dest a) := by
  refine ⟨by simp only [State.memoryLaw]; decide, fun src h => ?_, by simp only [State.memoryLaw]; decide, by decide,
    by decide, by decide, by decide, by decide, counted, by decide, by decide, fun a h => ?_⟩ <;> cases h

theorem test_last_pair_ends_the_copy :
    after (.copyWriteComplete 1 0) lastPair (fun t =>
      decide (t.extent 3 = .active { body with poolBase := 4, generation := 6 }) && decide (t.copyEngine = .idle) &&
        decide (t.completions.map (·.outcome) = [.relocationDone 0 false])) = true ∧
    after (.copyWriteComplete 1 0) (lastPair.setTracker 0 [counted]) (fun t =>
      decide (t.copyEngine = .running (relocation 4 .finishing 8388608 []))) = true := by decide

/-! ### Faults -/

def detectingFor (p : PortId) : State :=
  (withChannelState base 0 (.detecting false (some (.inBand p)))).setSlot p (some 0x2A)

theorem test_witness_ChannelFaults_clauses :
    base.hears 3 ∧ ((withPort base 0 (idlePort .awaitOpen)).port 0).state ≠ .opened ∧
    8 ≤ ((withNotices base 0 [1, 2, 3, 4, 5, 6, 7, 8] 9 0).noticeQueue 0).notices.length ∧
    (withNotices base 0 [1, 2, 3, 4, 5, 6, 7, 8] 9 0).power = .running ∧ (base.noticeQueue 0).notices.length < 8 ∧
    (∀ r, base.copyEngine ≠ .running r) ∧ pairInFlight.copyEngine = .running (relocation 4 .copying 1 onePair) ∧
    (∃ x ∈ onePair, x.writesAt 1 = true) ∧ (∀ x ∈ onePair, x.writesAt 0 = false) ∧
    pairInFlight.targetOn (relocation 4 .copying 1 onePair) 1 ∧
    ¬ pairInFlight.targetOn (relocation 4 .copying 1 onePair) 0 ∧
    (relocation 4 .finishing 8388608 []).phase = .finishing ∧
    (relocation 4 (.abandoning .requested) 1 []).phase = .abandoning .requested ∧
    ((detectingFor 2).channel 0).state = .detecting false (some (.inBand 2)) ∧ (detectingFor 2).hears 2 := by
  refine ⟨by simp only [State.hears]; decide, by decide, by decide, by decide, by decide, fun r h => (by cases h), by decide,
    by decide, by decide, ⟨4, by decide, by decide, by decide⟩, ?_, by decide, by decide, by decide,
    by simp only [State.hears]; decide⟩
  rintro ⟨seg, h1, h2, h3⟩
  have h : seg = 4 ∨ seg = 5 := by
    have a : 4 ≤ seg := h1
    have b : seg < 4 + 8388608 / 4194304 := h2
    omega
  rcases h with rfl | rfl <;> exact absurd h3 (by decide)

theorem test_faults_in_a_relocation :
    after (.channelFault 1) pairInFlight (fun t => decide (t.copyEngine.running?.map (fun r => (r.phase, r.destFault)) =
      some (.abandoning .destFault, true)) && decide ((t.channel 0).queue.map (·.action) = [.copyRead])) = true ∧
    after (.channelFault 0) pairInFlight (fun t => decide ((t.channel 1).queue.map (·.action) = [.copyWrite (some .poison)]) &&
      decide (t.copyEngine.running?.map (fun r => (r.phase, r.poisonedLines, r.pairs.map (·.writePart))) =
        some (.copying, 1, [.supplied]))) = true ∧
    after (.channelFault 1) finishing (fun t => decide (t.copyEngine.running?.map (fun r => (r.phase, r.destFault)) =
      some (.finishing, true))) = true ∧
    after (.channelFault 1) (copying (relocation 4 (.abandoning .requested) 1 [])) (fun t =>
      decide (t.copyEngine = .running (relocation 4 (.abandoning .requested) 1 []))) = true := by decide

theorem test_faults_of_entries_and_detection :
    after (.channelFault 0) (base.setTracker 0 [counted, dualEntry none true]) (fun t => decide (t.tracker 0 = []) &&
      decide ((t.port 0).outbox.take 2 = [.rdAbort 9 .channelDown (some 5), .wrAbort 1 .channelDown (some 5)])) = true ∧
    after (.channelFault 1) (base.setTracker 0 [{ dualEntry none false with resolution := .dual src0 dst1 }]) (fun t =>
      decide ((t.tracker 0).map (fun e => (e.sourcePart, e.destPart)) = [(none, true)])) = true ∧
    after (.channelFault 0) (detectingFor 2) (fun t => decide (t.slot 2 = none) &&
      decide ((t.port 2).outbox.getLast? = some (.mgmtResponse ⟨0x2A, .refused .moduleFault, []⟩))) = true ∧
    after (.channelFault 0) (withNotices base 0 [1, 2, 3, 4, 5, 6, 7, 8] 9 0) (fun t =>
      decide ((t.noticeQueue 0).lost = 1) && decide ((t.port 0).outbox = [])) = true := by decide

/-! ### Changes -/

/-- A second extent while the first is being copied to segments 4 and 5. -/
def secondRelocate : State :=
  let s := waitingOnRelocating (.relocate 4 5)
  { s with extents := s.extents.set 4 (.active { unmappedBody with poolBase := 2, length := 1 }) }

/-- Log 37. -/
theorem test_second_relocate_is_engine_busy :
    firstFailure (secondRelocate.relocateChecks 4 5) = some .engineBusy ∧ secondRelocate.overlapsPool 5 1 = true := by
  decide

def forcedWaiting : State :=
  (changing forced).setTracker 0 [entry .read 2 .waitChannel (.source src0), entry .write 4 .waitData (.source src0)]

theorem test_witness_HandoverTimersExpire_force :
    forcedWaiting.power = .running ∧ forcedWaiting.active = some forced ∧ forcedWaiting.extent 3 = .changing body 41 ∧
    forced.phase = .drain ∧ forced.drainTimer ≠ none ∧ forced.force = true ∧
    forced.confirmation = some .notRequested ∧ forcedWaiting.countedEntries forced ≠ 0 ∧
    (∀ e ∈ forcedWaiting.tracker forced.losing, e.waiting = true) ∧ (forcedWaiting.port 0).state = .opened ∧
    ((withPort (changing forced) 0 (idlePort .down)).port 0).state = .down := by decide

theorem test_force_commits_when_all_waited :
    after .drainTimerExpiry forcedWaiting (fun t => decide (t.tracker 0 = []) && decide (t.active = none) &&
      decide (t.completions.map (·.outcome) = [.forcedDone .notRequested 2]) &&
      decide ((t.port 0).outbox.take 2 = [.rdAbort 2 .forced (some 5), .wrAbort 4 .forced (some 5)]) &&
      decide (t.generationOf 3 = some 6)) = true := by decide

theorem test_end_records_are_held :
    after .relocationCommit (fullCompletions finishing) (fun t => decide (t.copyEngine =
      .ending ⟨0, .relocationEnd, some 3, none, none, .relocationDone 0 false, some 6⟩)) = true ∧
    after .abandonEnd (fullCompletions abandoning) (fun t => decide (t.copyEngine =
      .ending ⟨0, .relocationEnd, some 3, none, none, .relocationAbandoned .destFault, some 5⟩)) = true := by decide

/-! ### Requests -/

theorem test_witness_RequestsTurnedAway_clauses :
    requestOf (.readExtent .i2c 64) = some (.i2c, 0x11) ∧ badRequest (.readExtent .i2c 64) = true ∧
    badRequest (.readExtent .i2c 63) = false ∧ badRequest (.readPort .i2c 3 2) = true ∧
    badRequest (.breakRole (.inBand 0)) = true ∧ badRequest (.setEligible .i2c 16) = true ∧
    requestOf (.mgmtBadRequest (.i2c [])) = some (.i2c, 0xFF) ∧
    requestOf (.setOffer .i2c 3 1 1) = some (.i2c, 0x2F) ∧ badRequest (.setOffer .i2c 3 1 1) = false ∧
    holderRequest (.setOffer .i2c 3 1 1) = true ∧ holderRequest (.readPort .i2c 3 1) = true ∧
    nodeHolder.receives .i2c ∧ nodeHolder.holder ≠ pathHolder .i2c ∧
    (base.setSlot 0 (some 0x2A)).hears 0 ∧ (base.setSlot 0 (some 0x2A)).slot 0 = some 0x2A ∧
    ({ base with i2c := .inProgress 0x2A } : State).i2c = .inProgress 0x2A ∧ inReset.power ≠ .running ∧
    ¬ (withPort base 0 (idlePort .down)).hears 0 := by
  simp only [State.receives, State.hears]; decide

theorem test_requests_turned_away :
    after (.portDisable .i2c 0) nodeHolder (fun t => decide (t.i2c = .ready ⟨0x2D, .notHolder, []⟩)) = true ∧
    after (.clearErrors .i2c 2) nodeHolder (fun t => decide (t.i2c = .ready ⟨0x24, .notHolder, []⟩)) = true ∧
    after (.readStatus (.inBand 0)) (base.setSlot 0 (some 0x2A)) (fun t =>
      decide ((t.port 0).outbox = [.mgmtResponse ⟨0x10, .busy, []⟩]) && decide (t.slot 0 = some 0x2A)) = true ∧
    after (.mgmtBadRequest (.inBand 0 ⟨0, []⟩)) (base.setSlot 0 (some 0x2A)) (fun t =>
      decide ((t.port 0).outbox = [.mgmtResponse ⟨0xFF, .busy, []⟩])) = true ∧
    after (.claim .i2c) { base with i2c := .inProgress 0x2A } (fun t => decide (t.i2c = .inProgress 0x2A)) = true := by
  decide

/-- The confirmation byte of a handover in CONFIRM is 00h (R192). -/
theorem test_unrecorded_confirmation_is_zero :
    (handover .unmap .confirm).confirmation = none ∧
    (base.encodeHandover (handover .unmap .confirm))[25]? = some 0x00 ∧
    (base.encodeHandover { handover .unmap .confirm with confirmation := some .acknowledged })[25]? = some 0x03 := by
  decide

theorem rangesRise : limitsRise twoRanges 2 := by
  intro i hi r h
  have h' : i = 0 ∨ i = 1 := by omega
  rcases h' with rfl | rfl <;> (cases h; decide)

theorem rangesEven : bothEven twoRanges 2 := by
  intro i hi r h hm
  have h' : i = 0 ∨ i = 1 := by omega
  rcases h' with rfl | rfl <;> (cases h; cases hm)

def flatRanges : List LayoutRange := [⟨4, .ch0, none, none⟩, ⟨4, .ch1, none, none⟩]

def oddRanges : List LayoutRange := [⟨4, .ch0, none, none⟩, ⟨7, .both, none, none⟩]

theorem test_witness_PoolCommitAndTeardown_checks :
    (poolOff flatRanges).layout.pool = .offline ∧ limitsRise flatRanges 1 ∧
    flatRanges[1]? = some ⟨4, .ch1, none, none⟩ ∧ 4 ≤ rangeLower flatRanges 1 ∧
    limitsRise oddRanges 2 ∧ bothEven oddRanges 1 ∧ oddRanges[1]? = some ⟨7, .both, none, none⟩ ∧
    (7 - rangeLower oddRanges 1) % 2 = 1 ∧ limitsRise twoRanges twoRanges.length ∧ bothEven twoRanges twoRanges.length ∧
    ¬ (withChannelState (poolOff twoRanges) 0 .faulted).namedOnline 0 ∧ (poolOff twoRanges).namedOnline 0 ∧
    (poolOff twoRanges).namedOnline 1 ∧ ¬ (withChannelState (poolOff twoRanges) 1 .offline).namedOnline 1 ∧
    (poolOff twoRanges).fitsChannel 0 ∧ (poolOff twoRanges).fitsChannel 1 ∧
    ¬ (poolOff [⟨17, .ch0, none, none⟩]).fitsChannel 0 ∧ ¬ (poolOff [⟨17, .ch1, none, none⟩]).fitsChannel 1 := by
  refine ⟨by decide, fun i hi r h => ?_, by decide, by decide, fun i hi r h => ?_, fun i hi r h hm => ?_, by decide,
    by decide, rangesRise, rangesEven, fun h => ?_, fun _ => by decide, fun _ => by decide, fun h => ?_,
    by simp only [State.fitsChannel]; decide, by simp only [State.fitsChannel]; decide,
    by simp only [State.fitsChannel]; decide, by simp only [State.fitsChannel]; decide⟩
  · have h' : i = 0 := by omega
    subst h'; cases h; decide
  · have h' : i = 0 ∨ i = 1 := by omega
    rcases h' with rfl | rfl <;> (cases h; decide)
  · have h' : i = 0 := by omega
    subst h'; cases h; cases hm
  · exact absurd (h ⟨_, List.mem_cons_self, .inr (.inl ⟨rfl, rfl⟩)⟩) (by decide)
  · exact absurd (h ⟨_, List.mem_cons_of_mem _ List.mem_cons_self, .inr (.inr ⟨rfl, rfl⟩)⟩) (by decide)

theorem test_commit_checks :
    after (.poolCommit .i2c) (poolOff flatRanges) (fun t => decide (t.i2c = .ready ⟨0x28, .refused .limitOrder, [1]⟩)) = true ∧
    after (.poolCommit .i2c) (poolOff oddRanges) (fun t => decide (t.i2c = .ready ⟨0x28, .refused .oddLength, [1]⟩)) = true ∧
    after (.poolCommit .i2c) (withChannelState (poolOff twoRanges) 1 .offline) (fun t =>
      decide (t.i2c = .ready ⟨0x28, .refused .channelNotOnline, [1]⟩)) = true ∧
    after (.poolCommit .i2c) (poolOff [⟨17, .ch0, none, none⟩]) (fun t =>
      decide (t.i2c = .ready ⟨0x28, .refused .capacity, [0]⟩)) = true ∧
    channelTotal unequalLayout.ranges 0 3 = 256 ∧ channelTotal unequalLayout.ranges 1 3 = 192 := by decide

/-! ## Notices of a step, cut work, modules -/

/-- The role at port 2 of a state. -/
def heldBy2 (s : State) : State := { s with holder := .port 2 }

/-- The bodies that a port's queue holds. -/
def bodiesOf (s : State) (p : PortId) : List NoticeBody := (s.noticeQueue p).notices.map (·.body)

theorem test_immediate_notices :
    after .map (heldBy2 (waiting (.map 3 1 6 .read))) (fun t => decide (bodiesOf t 1 = [.mapped 3 41 6 6 .read]) &&
      decide (bodiesOf t 2 = [.completionPosted (some 41) (some 3)]) && decide (bodiesOf t 0 = []) &&
      decide ((t.port 1).outbox.length = 1)) = true ∧
    after .setRights (heldBy2 (waitingOn readBody (.setRights 3 0 .readWrite true true))) (fun t =>
      decide (bodiesOf t 0 = [.upgraded 3 41 6])) = true ∧
    after .map (withPort (waiting (.map 3 1 6 .read)) 1 (idlePort .awaitOpen)) (fun t =>
      decide (bodiesOf t 1 = []) && decide ((t.port 1).outbox = [])) = true := by decide

theorem test_handover_notices :
    after .unmap (startsUnmap true) (fun t => decide (bodiesOf t 0 = [.pendingRevoke 3 41 5])) = true ∧
    after .setRights startsDowngrade (fun t => decide (bodiesOf t 0 = [.pendingDowngrade 3 41 5])) = true ∧
    after .handoverCommit (heldBy2 (changing (handover (.transfer 1 6 .read) .drain))) (fun t =>
      decide (bodiesOf t 0 = [.revoked 3 41 6]) && decide (bodiesOf t 1 = [.mapped 3 41 6 6 .read]) &&
        decide (bodiesOf t 2 = [.completionPosted (some 41) (some 3)])) = true ∧
    after .confirmTimerExpiry (changing { handover .unmap .confirm with pendingNotice := .held }) (fun t =>
      decide (bodiesOf t 0 = [])) = true ∧
    after (.cancel (.inBand 2) 41) (heldBy2 atWork) (fun t => decide (bodiesOf t 0 = [.restored 3 41 5]) &&
      decide (bodiesOf t 2 = [.completionPosted (some 41) (some 3)]) && decide ((t.port 2).outbox.length = 2)) = true ∧
    after .relocationCommit (heldBy2 finishing) (fun t => decide (bodiesOf t 2 = [.completionPosted none (some 3)])) = true ∧
    after .relocationCommit (fullCompletions (heldBy2 finishing)) (fun t => decide (bodiesOf t 2 = [])) = true := by decide

/-- A full queue loses the notices of a step; one with a place takes the first alone. -/
theorem test_queue_takes :
    (((withNotices base 0 [249, 250, 251, 252, 253, 254, 255, 0] 1 2).noticeQueue 0).takes
      [.roleLost, .channelLost 0]).1.lost = 4 ∧
    (((withNotices base 0 [250, 251, 252, 253, 254, 255, 0] 1 2).noticeQueue 0).takes [.roleLost, .channelLost 0]).2 =
      [⟨1, .roleLost, 2⟩] ∧
    (((withNotices base 0 [250, 251, 252, 253, 254, 255, 0] 1 2).noticeQueue 0).takes [.roleLost, .channelLost 0]).1.lost =
      1 := by decide

theorem test_witness_HandoverTimersExpire_restores :
    (handover .unmap .confirm).restores 5 [(0, .restored 3 41 5)] ∧
    ({ handover .unmap .confirm with pendingNotice := .held } : Handover).restores 5 [] := by
  refine ⟨⟨fun _ _ => rfl, fun h => absurd rfl (h 7)⟩, ⟨fun sq h => ?_, fun _ => rfl⟩⟩
  cases h

theorem test_witness_PendingNoticeReoffered_extent : (holding [253]).extent 3 = .changing body 41 := by decide

/-- A handover and a relocation at work together, one change waiting behind. -/
def doublyAtWork : State :=
  { (withPreserve atWork).setExtent 4 (.relocating body) with
      copyEngine := .running (relocation 4 .copying 9 []), completions := [oneRecord]
      changeQueue := [(handover .unmap .confirm).change, change (.retire 5)] }

theorem test_witness_CutWorkIsRecorded_parts :
    doublyAtWork.power = .running ∧ doublyAtWork.layout.preserve = true ∧
    doublyAtWork.active = some (handover .unmap .confirm) ∧
    doublyAtWork.copyEngine = .running (relocation 4 .copying 9 []) ∧
    (withPreserve (ending base)).active = none ∧ (withPreserve (ending base)).completions = [] ∧
    (withPreserve (ending base)).copyEngine =
      .ending ⟨0, .relocationEnd, some 3, none, none, .relocationDone 1 false, some 6⟩ := by decide

theorem test_cut_work :
    after .resetNFallingEdge doublyAtWork (fun t => decide (t.interrupted = some
      ⟨some ⟨41, .unmap, 3, 0, .confirm⟩, some ⟨3, .copying, 9⟩, 1, 1⟩)) = true ∧
    after .resetNFallingEdge (withPreserve (ending base)) (fun t => decide (t.interrupted = some
      ⟨none, none, 0, 1⟩)) = true ∧
    after .resetNFallingEdge (withPreserve { base with changeQueue := [change (.retire 5)] }) (fun t =>
      decide (t.interrupted = some ⟨none, none, 1, 0⟩)) = true := by decide

theorem test_power_off_leaves_nothing :
    after .pwrgoodDeasserted doublyAtWork (fun t => decide (t = { State.reset with power := .off })) = true := by decide

theorem test_witness_ManagerRole_held :
    nodeHolder.receives (.inBand 0) ∧ (nodeHolder.port 0).state = .opened ∧ nodeHolder.eligible.getLsbD (0 : PortId).val = true ∧
    nodeHolder.holder = .port 2 ∧ (2 : PortId) ≠ 0 := by simp only [State.receives]; decide

theorem test_claim_of_a_held_role :
    after (.claim (.inBand 0)) nodeHolder (fun t => decide (t.holder = .port 2) &&
      decide ((t.port 0).outbox = [.mgmtResponse ⟨0x38, .held, [2]⟩])) = true := by decide

/-- The channel of R91: 64 segments in slot 0, none in slot 1, 128 in slot 2. -/
def twoModules : Channel := { onlineChannel with slots := #v[some 64, none, some 128, none] }

theorem test_witness_DetectionAndFillEnd_modules :
    twoModules.capacity = 192 ∧ twoModules.slots[(2 : Fin 4)] = some 128 ∧
    twoModules.moduleOfSegment 0 = some (0, 0) ∧ twoModules.moduleOfSegment 63 = some (0, 63) ∧
    twoModules.moduleOfSegment 64 = some (2, 0) ∧ twoModules.moduleOfSegment 191 = some (2, 127) ∧
    twoModules.moduleOfSegment 192 = none ∧ twoModules.moduleOfLine (64 * 4194304 + 5) = some (2, 5) := by decide

/-! ## Decoding, causes and malformed packets -/

theorem test_witness_BridgeResetKeepsOrClears_request :
    base.receives .i2c ∧ (withPreserve base).receives .i2c ∧
    ((withPreserve (withChannelState base 1 .offline)).channel 1).state = .offline := by
  simp only [State.receives]; decide

theorem test_witness_CutWorkIsRecorded_request : doublyAtWork.receives .i2c ∧ doublyAtWork.layout.preserve = true := by
  simp only [State.receives]; decide

theorem test_bridge_reset_by_request :
    after (.bridgeReset .i2c) doublyAtWork (fun t => decide (t.interrupted = some
      ⟨some ⟨41, .unmap, 3, 0, .confirm⟩, some ⟨3, .copying, 9⟩, 1, 1⟩) && decide (t.layout.ranges = smallLayout.ranges) &&
        decide (t.lastReset = ⟨.resetRequest, true⟩)) = true ∧
    after (.bridgeReset .i2c) (withPreserve (withChannelState base 1 .offline)) (fun t =>
      decide ((t.channel 1).state = .offline) && decide ((t.channel 0).state = .online)) = true := by decide

/-- Table 15's ranges as committed. -/
def unequalRanges : List LayoutRange :=
  [⟨128, .both, some 0, some 0⟩, ⟨320, .ch0, some 64, none⟩, ⟨448, .ch1, none, some 64⟩]

theorem unequal_committed : unequalLayout.committed.ranges = unequalRanges := by decide

theorem unequal_index {i : Nat} (h : i < 3) : i = 0 ∨ i = 1 ∨ i = 2 := by omega

theorem unequalRise : limitsRise unequalRanges unequalRanges.length := by
  intro i hi r h
  rcases unequal_index hi with rfl | rfl | rfl <;> (cases h; decide)

theorem unequalTotals : startsAreTotals unequalRanges := by
  intro i r h
  have hi : i < 3 := (List.getElem?_eq_some_iff.mp h).1
  rcases unequal_index hi with rfl | rfl | rfl <;> (cases h; decide)

/-- The first and the last address of each range, and both sides of the first block's end. -/
theorem test_witness_TargetResolution_places :
    holdsSegment unequalRanges 0 ⟨128, .both, some 0, some 0⟩ (511 / 268435456) ∧ 511 / 512 % 2 = 0 ∧
    holdsSegment unequalRanges 0 ⟨128, .both, some 0, some 0⟩ ((128 * 268435456 - 1) / 268435456) ∧
    (128 * 268435456 - 1) / 512 % 2 = 1 ∧
    holdsSegment unequalRanges 1 ⟨320, .ch0, some 64, none⟩ (128 * 268435456 / 268435456) ∧
    holdsSegment unequalRanges 1 ⟨320, .ch0, some 64, none⟩ ((320 * 268435456 - 1) / 268435456) ∧
    holdsSegment unequalRanges 2 ⟨448, .ch1, none, some 64⟩ (320 * 268435456 / 268435456) ∧
    holdsSegment unequalRanges 2 ⟨448, .ch1, none, some 64⟩ ((448 * 268435456 - 1) / 268435456) := by
  simp only [holdsSegment]; decide

theorem test_places :
    unequalLayout.committed.decode 511 = some ⟨0, 7⟩ ∧ unequalLayout.committed.decode 512 = some ⟨1, 0⟩ ∧
    unequalLayout.committed.decode 1024 = some ⟨0, 8⟩ ∧
    unequalLayout.committed.decode (128 * 268435456 - 1) = some ⟨1, 64 * 4194304 - 1⟩ ∧
    unequalLayout.committed.decode (128 * 268435456) = some ⟨0, 64 * 4194304⟩ ∧
    unequalLayout.committed.decode (320 * 268435456) = some ⟨1, 64 * 4194304⟩ := by decide

/-- The first and the last channel-local segment of each range and channel, and those past the last. -/
theorem test_witness_PoolCommitAndTeardown_queries :
    unequalLayout.committed.pool ≠ .offline ∧ unequalLayout.pool = .offline ∧
    coversLocal unequalRanges 0 0 ⟨128, .both, some 0, some 0⟩ 0 0 ∧
    coversLocal unequalRanges 1 0 ⟨128, .both, some 0, some 0⟩ 0 63 ∧
    coversLocal unequalRanges 0 1 ⟨320, .ch0, some 64, none⟩ 64 64 ∧
    coversLocal unequalRanges 0 1 ⟨320, .ch0, some 64, none⟩ 64 255 ∧
    coversLocal unequalRanges 1 2 ⟨448, .ch1, none, some 64⟩ 64 191 ∧
    (∀ i r start, ¬ coversLocal unequalRanges 0 i r start 256) ∧
    (∀ i r start, ¬ coversLocal unequalRanges 1 i r start 192) := by
  refine ⟨by decide, by decide, ?_, ?_, ?_, ?_, ?_, ?_, ?_⟩
  all_goals try (simp only [coversLocal]; decide)
  all_goals
    rintro i r start ⟨h, hs, _, hg⟩
    have hi : i < 3 := (List.getElem?_eq_some_iff.mp h).1
    rcases unequal_index hi with rfl | rfl | rfl <;> cases h <;> rcases hs with ⟨h0, hs⟩ | ⟨h0, hs⟩ <;>
      first
        | (cases h0; done)
        | (cases hs; done)
        | (cases hs; revert hg; decide)

theorem test_queries :
    unequalLayout.committed.segmentOfLine 1 (64 * 4194304 - 1) = some 127 ∧
    unequalLayout.committed.segmentOfLine 0 (64 * 4194304) = some 128 ∧
    unequalLayout.committed.segmentOfLine 0 (256 * 4194304) = none ∧ unequalLayout.segmentOfLine 0 0 = none ∧
    unequalLayout.committed.segmentOn 127 1 = true ∧ unequalLayout.committed.segmentOn 128 1 = false ∧
    unequalLayout.committed.uses 1 = true ∧ unequalLayout.uses 1 = false := by decide

theorem test_witness_WriteDataStored_malformed :
    base.hears 0 ∧ ({ dataPacket 3 0 1 with len := 33 } : RawPacket).len ≠ 34 ∧
    ({ dataPacket 3 0 1 with body := [] } : RawPacket).body.length ≠ 34 ∧
    (dataPacket 3 2 1).body[1]? = some 2 ∧ (2 : Byte) ≠ 0 ∧ (2 : Byte) ≠ 1 := by
  simp only [State.hears]; decide

theorem test_witness_AcknowledgementsRemoveNotices_malformed :
    noted.hears 0 ∧ (⟨2, [3]⟩ : RawPacket).len ≠ 1 ∧ (⟨1, []⟩ : RawPacket).body.length ≠ 1 := by
  simp only [State.hears]; decide

theorem test_malformed_packets :
    after (.wdata 0 (dataPacket 3 2 1)) base (fun t => decide ((t.port 0).error = some ⟨.malformed, some 3⟩)) = true ∧
    after (.wdata 0 ⟨34, []⟩) base (fun t => decide ((t.port 0).error = some ⟨.malformed, none⟩)) = true ∧
    after (.noticeAck 0 ⟨2, [3]⟩) noted (fun t => decide ((t.port 0).error = some ⟨.malformed, none⟩) &&
      decide (t.noticeQueues = noted.noticeQueues) && decide ((t.port 0).protocolErrors = 1)) = true := by decide

theorem test_witness_PortCloses_confirming :
    confirming.power = .running ∧ (confirming.port 0).state = .opened ∧ confirming.tracker 0 ≠ [] ∧
    confirming.active = some (handover .unmap .confirm) ∧ (handover .unmap .confirm).phase = .confirm ∧
    (handover .unmap .confirm).losing = 0 ∧
    (∃ e ∈ confirming.tracker 0, e.extent = (handover .unmap .confirm).extent ∧
      ((handover .unmap .confirm).kind = .downgrade → e.kind = .write)) ∧
    (∀ e ∈ (confirming.setTracker 0 [{ counted with extent := 4 }]).tracker 0,
      e.extent = (handover .unmap .confirm).extent → (handover .unmap .confirm).kind = .downgrade ∧ e.kind = .read) := by
  decide

theorem test_close_confirms :
    after (.portClose 0 0) confirming (fun t => decide ((t.port 0).state = .closing) &&
      decide (t.active.map (fun h => (h.phase, h.confirmation, h.drainTimer)) =
        some (.drain, some .confirmedByLoss, some 100))) = true ∧
    after (.portClose 0 0) (confirming.setTracker 0 [{ counted with extent := 4 }]) (fun t =>
      decide (t.active = none) && decide ((t.port 0).outbox = [.configDone 3]) &&
        decide (t.completions.map (·.outcome) = [.doneHandover .confirmedByLoss])) = true := by decide

/-- A change that waits behind the handover of extent 3. -/
def behind : State := { atWork with changeQueue := [(handover .unmap .confirm).change, { change (.retire 5) with id := 42 }] }

theorem test_witness_QueueRequests_behind :
    behind.manages .i2c ∧ behind.changeQueue = [(handover .unmap .confirm).change] ++ [{ change (.retire 5) with id := 42 }] ∧
    behind.active = some (handover .unmap .confirm) ∧ (handover .unmap .confirm).change.id ≠ (42 : BitVec 16).toNat ∧
    (change (.retire 5)).id ≠ (43 : BitVec 16).toNat ∧ behind.placeFree = true ∧ (fullCompletions behind).placeFree = false := by
  simp only [State.manages, State.receives]; decide

theorem test_cancel_behind :
    after (.cancel .i2c 42) behind (fun t => decide (t.changeQueue = [(handover .unmap .confirm).change]) &&
      decide (t.active = some (handover .unmap .confirm)) &&
        decide (t.completions.map (·.outcome) = [.cancelled .queued])) = true ∧
    after (.cancel .i2c 43) behind (fun t => decide (t.i2c = .ready ⟨0x21, .notFound, []⟩)) = true := by decide

theorem test_alert :
    base.alertByte = 0 ∧ base.alertAsserted = false ∧ ({ base with completions := [oneRecord] } : State).alertByte = 1 ∧
    (base.setChannel 1 { onlineChannel with firstError := some .fault }).alertByte = 2 ∧
    ({ base with interrupted := some ⟨none, none, 0, 1⟩ } : State).alertByte = 4 := by decide

/-- READ_PORT ends with the port's eligibility and its hold of the role. -/
theorem test_read_port_tells_the_role :
    nodeHolder.encodeRole 2 = [1, 1] ∧ nodeHolder.encodeRole 0 = [1, 0] ∧
    ({ nodeHolder with eligible := 4 } : State).encodeRole 0 = [0, 0] := by decide

/-! ## Laws -/

/-- A bridge at work that meets every law, with a command that acts. -/
def lawful : State := { (base.setTracker 0 [counted]) with pending := [.trainingFailed 0] }

theorem test_lawful_steps : step lawful = .next { lawful with pending := [] } := rfl

theorem lawful_extent (y : ExtentId) (b : ExtentBody) (h : (lawful.extent y).body? = some b) : y = 3 ∧ b = body := by
  obtain ⟨hy, hb⟩ := working_extent (.active body) y b h
  exact ⟨hy, (Option.some.inj hb).symm⟩

theorem test_witness_StepKeepsMemoryLaw : lawful.memoryLaw := by simp only [State.memoryLaw]; decide

theorem test_witness_StepKeepsRoleLaw : ({ lawful with holder := .port 2 } : State).roleLaw := by
  intro p hp; cases hp; decide

theorem test_witness_StepKeepsQueueLaws : lawful.queueLaw ∧ lawful.sequenceLaw ∧ (withNotices lawful 0 [254, 255, 0] 1 0).sequenceLaw := by
  simp only [State.queueLaw, State.sequenceLaw, NoticeQueue.ordered]; decide

theorem test_witness_StepKeepsCreditAndTagLaws : lawful.creditLaw ∧ lawful.tagLaw := by
  simp only [State.creditLaw, LinkPort.creditLaw, trackerLaw, State.tagLaw, tagsDistinct]; decide

theorem test_witness_StepKeepsShareAndWindowLaws : lawful.shareLaw ∧ lawful.windowLaw := by
  refine ⟨⟨fun x b h => ?_, fun h hh => by cases hh⟩, fun x b h => ?_, fun h hh => by cases hh⟩
  · rw [(lawful_extent x b h).2]; decide
  · obtain ⟨rfl, rfl⟩ := lawful_extent x b h
    intro p m hm
    have hp : p = 0 ∨ p = 1 ∨ p = 2 ∨ p = 3 := by clear hm; revert p; decide
    refine ⟨?_, fun ⟨_, _, _, y, hy, a, _, ha, _⟩ => hy (lawful_extent y a ha).1⟩
    rcases hp with rfl | rfl | rfl | rfl <;> cases hm
    decide

theorem test_witness_StepKeepsPlaceAndCopyLaws : lawful.placeLaw ∧ pairInFlight.placeLaw ∧ pairInFlight.copyLaw := by
  refine ⟨?_, ?_, ?_⟩
  · simp only [State.placeLaw, Channel.placeLaw]; decide
  · simp only [State.placeLaw, Channel.placeLaw]; decide
  · intro r h; cases h; decide

theorem test_witness_StepKeepsExtentLaw : lawful.extentLaw := by
  constructor <;> constructor
  · intro h hh; cases hh
  · intro x b id hx
    have h3 := (lawful_extent x b (by rw [hx]; rfl)).1
    subst h3; cases (show Extent.active body = .changing b id from hx)
  · intro r hr; cases hr
  · intro x b hx
    have h3 := (lawful_extent x b (by rw [hx]; rfl)).1
    subst h3; cases (show Extent.active body = .relocating b from hx)

theorem test_witness_StepKeepsPlacementLaw : lawful.placementLaw := by
  refine ⟨test_witness_StepKeepsExtentLaw, ?_, ?_, ?_⟩
  · intro x y a b hne ha hb
    exact absurd ((lawful_extent x a ha).1.trans (lawful_extent y b hb).1.symm) hne
  · intro x b hb; rw [(lawful_extent x b hb).2]; decide
  · intro r hr; cases hr

end Sys2Proof.Tests
end

section
/-! SUPPORT. What the steps of the bridge can do to its map: the extent records, the windows, the pool, and the handover
and the relocation in progress. `Quiet` says that none of these moved, `MapStep` lists every way in which a step moves
them, and `exec_mapStep` says that every command is made of those. The laws of the map then follow step by step. -/

namespace Sys2Proof.Machine

/-! ## What the laws of the map read -/

/-- What the laws read of a handover: its change, its extent, the losing port, and what it will commit. -/
def Handover.claim (h : Handover) : ChangeRecord × ExtentId × PortId × HandoverKind :=
  (h.change, h.extent, h.losing, h.kind)

/-- What the laws read of a relocation: its extent and its two ranges. -/
def Relocation.ranges (r : Relocation) : ExtentId × Nat × Nat × Nat :=
  (r.extent, r.sourceBase, r.targetBase, r.lengthLines)

/-- Two states with the same records, windows, pool size, relocation and handover. While a handover is active, the
head of the change queue is the same too. -/
structure SameMap (s t : State) : Prop where
  extents : t.extents = s.extents
  windows : ∀ p : PortId, (t.port p).windowSize = (s.port p).windowSize
  size : t.layout.size = s.layout.size
  relocation : t.copyEngine.running?.map Relocation.ranges = s.copyEngine.running?.map Relocation.ranges
  handover : t.active.map Handover.claim = s.active.map Handover.claim
  head : s.active ≠ none → ∀ ch, s.changeQueue.head? = some ch → t.changeQueue.head? = some ch

/-- A change that the laws of the map do not see: the map is the same, and a handover found in CONFIRM was there before,
its losing port still OPEN. -/
structure Quiet (s t : State) : Prop extends SameMap s t where
  confirm : ∀ h, t.active = some h → h.phase = .confirm → ∃ g, s.active = some g ∧ g.phase = .confirm ∧
    ((s.port h.losing).state = .opened → (t.port h.losing).state = .opened)

theorem SameMap.extent {s t : State} (q : SameMap s t) (x : ExtentId) : t.extent x = s.extent x := by
  simp [State.extent, q.extents]

theorem SameMap.active_some {s t : State} (q : SameMap s t) {h : Handover} (a : t.active = some h) :
    ∃ g, s.active = some g ∧ g.claim = h.claim := by
  have e : s.active.map Handover.claim = some h.claim := by rw [← q.handover, a]; rfl
  exact Option.map_eq_some_iff.mp e

theorem SameMap.active_of_some {s t : State} (q : SameMap s t) {g : Handover} (a : s.active = some g) :
    ∃ h, t.active = some h ∧ h.claim = g.claim := by
  have e : t.active.map Handover.claim = some g.claim := by rw [q.handover, a]; rfl
  exact Option.map_eq_some_iff.mp e

theorem SameMap.trans {s t u : State} (q : SameMap s t) (r : SameMap t u) : SameMap s u where
  extents := r.extents.trans q.extents
  windows p := (r.windows p).trans (q.windows p)
  size := r.size.trans q.size
  relocation := r.relocation.trans q.relocation
  handover := r.handover.trans q.handover
  head a ch h := by
    obtain ⟨g, hg⟩ := Option.ne_none_iff_exists'.mp a
    obtain ⟨g', hg', -⟩ := q.active_of_some hg
    exact r.head (by simp [hg']) ch (q.head a ch h)

theorem Handover.claim_eq {g h : Handover} (e : g.claim = h.claim) :
    g.change = h.change ∧ g.extent = h.extent ∧ g.losing = h.losing ∧ g.kind = h.kind := by
  simpa [Handover.claim] using e

theorem Relocation.ranges_eq {q r : Relocation} (e : q.ranges = r.ranges) :
    q.extent = r.extent ∧ q.sourceBase = r.sourceBase ∧ q.targetBase = r.targetBase ∧ q.lengthLines = r.lengthLines := by
  simpa [Relocation.ranges] using e

theorem CopyEngine.running?_eq_some {e : CopyEngine} {r : Relocation} : e.running? = some r ↔ e = .running r := by
  cases e <;> simp [CopyEngine.running?]

theorem SameMap.running {s t : State} (q : SameMap s t) {r : Relocation} (h : t.copyEngine = .running r) :
    ∃ r', s.copyEngine = .running r' ∧ r'.ranges = r.ranges := by
  have e : s.copyEngine.running?.map Relocation.ranges = some r.ranges := by rw [← q.relocation, h]; rfl
  obtain ⟨r', hr, he⟩ := Option.map_eq_some_iff.mp e
  exact ⟨r', CopyEngine.running?_eq_some.mp hr, he⟩

theorem SameMap.running_of {s t : State} (q : SameMap s t) {r : Relocation} (h : s.copyEngine = .running r) :
    ∃ r', t.copyEngine = .running r' ∧ r'.ranges = r.ranges := by
  have e : t.copyEngine.running?.map Relocation.ranges = some r.ranges := by rw [q.relocation, h]; rfl
  obtain ⟨r', hr, he⟩ := Option.map_eq_some_iff.mp e
  exact ⟨r', CopyEngine.running?_eq_some.mp hr, he⟩

theorem Quiet.trans {s t u : State} (q : Quiet s t) (r : Quiet t u) : Quiet s u where
  toSameMap := q.toSameMap.trans r.toSameMap
  confirm h a c := by
    obtain ⟨g, ag, cg, pg⟩ := r.confirm h a c
    obtain ⟨f, af, cf, pf⟩ := q.confirm g ag cg
    have same : g.losing = h.losing := by
      obtain ⟨g', ag', e⟩ := r.active_some a
      obtain rfl := Option.some.inj (ag.symm.trans ag')
      exact (Handover.claim_eq e).2.2.1
    exact ⟨f, af, cf, fun o => pg (same ▸ pf (same ▸ o))⟩

/-! ## Quiet operations -/

/-- A change of none of the fields that the laws of the map read, but for the packets of the ports. -/
theorem Quiet.of_fields {s t : State} (extents : t.extents = s.extents := by rfl)
    (ports : quietSame t.ports s.ports := by exact quietSame_refl _) (layout : t.layout = s.layout := by rfl)
    (copyEngine : t.copyEngine = s.copyEngine := by rfl) (active : t.active = s.active := by rfl)
    (changeQueue : t.changeQueue = s.changeQueue := by rfl) : Quiet s t where
  extents := extents
  windows p := (LinkPort.quiet_fields (ports p)).2.2.1
  size := by rw [layout]
  relocation := by rw [copyEngine]
  handover := by rw [active]
  head _ ch h := by rw [changeQueue]; exact h
  confirm h a c := ⟨h, active ▸ a, c, fun o => (LinkPort.quiet_fields (ports h.losing)).1.trans o⟩

theorem Quiet.refl (s : State) : Quiet s s := .of_fields

section
variable (s : State)

theorem State.setPort_sameMap (p : PortId) {x : LinkPort} (w : x.windowSize = (s.port p).windowSize) :
    SameMap s (s.setPort p x) where
  extents := rfl
  windows q := by rw [State.setPort_port]; split <;> simp_all
  size := rfl
  relocation := rfl
  handover := rfl
  head _ _ h := h

/-- A Link Port changes quietly where it keeps its window and does not leave OPEN. -/
theorem State.setPort_quiet (p : PortId) {x : LinkPort} (w : x.windowSize = (s.port p).windowSize)
    (o : (s.port p).state = .opened → x.state = .opened) : Quiet s (s.setPort p x) where
  toSameMap := s.setPort_sameMap p w
  confirm h a c := ⟨h, a, c, fun k => by rw [State.setPort_port]; split <;> simp_all⟩

theorem State.setTracker_quiet (p : PortId) (x : List Entry) : Quiet s (s.setTracker p x) := .of_fields
theorem State.setNoticeQueue_quiet (p : PortId) (x : NoticeQueue) : Quiet s (s.setNoticeQueue p x) := .of_fields
theorem State.setChannel_quiet (c : ChannelId) (x : Channel) : Quiet s (s.setChannel c x) := .of_fields

theorem State.sendAll_quiet (p : PortId) (pkts : List OutPacket) : Quiet s (s.sendAll p pkts) := by
  obtain ⟨ports, h, k⟩ := s.sendAll_frame p pkts
  exact h ▸ .of_fields (ports := k)

theorem State.send_quiet (p : PortId) (pkt : OutPacket) : Quiet s (s.send p pkt) := s.sendAll_quiet p [pkt]

theorem State.offerNotice_quiet (p : PortId) (body : NoticeBody) : Quiet s (s.offerNotice p body) := by
  obtain ⟨ports, queues, h, k⟩ := s.offerNotice_frame p body
  exact h ▸ .of_fields (ports := k)

theorem State.offerNotices_quiet (l : List (PortId × NoticeBody)) : Quiet s (s.offerNotices l) := by
  obtain ⟨ports, queues, h, k⟩ := s.offerNotices_frame l
  exact h ▸ .of_fields (ports := k)

theorem State.postRecord_quiet (r : CompletionRecord) : Quiet s (s.postRecord r) := by
  obtain ⟨ports, queues, h, k⟩ := s.postRecord_frame r
  exact h ▸ .of_fields (ports := k)

theorem State.announce_quiet (r : CompletionRecord) (l : List (PortId × NoticeBody)) : Quiet s (s.announce r l) := by
  obtain ⟨ports, queues, h, k⟩ := s.announce_frame r l
  exact h ▸ .of_fields (ports := k)

theorem State.respond_quiet (path : MgmtPath) (r : MgmtResponse) : Quiet s (s.respond path r) := by
  obtain ⟨ports, i2c, slots, h, k⟩ := s.respond_frame path r
  exact h ▸ .of_fields (ports := k)

theorem State.takeRequest_quiet (path : MgmtPath) (kind : Byte) : Quiet s (s.takeRequest path kind) := by
  obtain ⟨i2c, slots, h⟩ := s.takeRequest_frame path kind
  exact h ▸ .of_fields

theorem State.applyFates_quiet (p : PortId) (f : Entry → Fate) : Quiet s (s.applyFates p f) :=
  (s.setTracker_quiet p _).trans (State.sendAll_quiet _ p _)

theorem State.applyFatesAll_quiet (f : Entry → Fate) : Quiet s (s.applyFatesAll f) := by
  obtain ⟨ports, trackers, h, k⟩ := s.applyFatesAll_frame f
  exact h ▸ .of_fields (ports := k)

theorem State.protocolError_quiet (p : PortId) (kind : PortErrorKind) (tag : Option Byte) :
    Quiet s (s.protocolError p kind tag) := s.setPort_quiet p rfl id

theorem State.orphan_quiet (p : PortId) : Quiet s (s.orphan p) := s.setPort_quiet p rfl id

theorem State.freeRole_quiet (p : PortId) : Quiet s (s.freeRole p) := by
  unfold State.freeRole
  split
  · exact .of_fields
  · exact .refl s

theorem State.clearSlot_quiet (p : PortId) : Quiet s (s.clearSlot p) := .of_fields

/-- The change queue moves quietly behind the head of an active change. -/
theorem State.changeQueue_quiet {l : List ChangeRecord}
    (head : s.active ≠ none → ∀ ch, s.changeQueue.head? = some ch → l.head? = some ch) :
    Quiet s { s with changeQueue := l } where
  extents := rfl
  windows _ := rfl
  size := rfl
  relocation := rfl
  handover := rfl
  head := head
  confirm h a c := ⟨h, a, c, id⟩

/-- The end of the head change, where no handover is active: its record and its notices. -/
theorem State.endHead_quiet (idle : s.active = none) (ch : ChangeRecord) (o : RecordOutcome)
    (l : List (PortId × NoticeBody)) : Quiet s (s.endHead ch o l) := by
  refine ((s.changeQueue_quiet (l := s.changeQueue.tail) fun a => absurd idle a).trans ?_).trans (State.announce_quiet _ _ _)
  exact .of_fields (active := idle.symm)

/-- The Copy Engine moves quietly while its relocation keeps its extent and its ranges. -/
theorem State.copyEngine_quiet {e : CopyEngine}
    (h : e.running?.map Relocation.ranges = s.copyEngine.running?.map Relocation.ranges) :
    Quiet s { s with copyEngine := e } where
  extents := rfl
  windows _ := rfl
  size := rfl
  relocation := h
  handover := rfl
  head _ _ h := h
  confirm h a c := ⟨h, a, c, id⟩

/-- The active handover moves quietly while it claims the same and does not enter CONFIRM. -/
theorem State.active_quiet {s : State} {g h : Handover} (a : s.active = some g) (e : h.claim = g.claim)
    (c : h.phase = .confirm → g.phase = .confirm) : Quiet s { s with active := some h } where
  extents := rfl
  windows _ := rfl
  size := rfl
  relocation := rfl
  handover := by simp [a, e]
  head _ _ h := h
  confirm h' a' c' := by
    obtain rfl := Option.some.inj a'
    exact ⟨g, a, c c', id⟩

end
/-! ## The aborts of a channel -/

theorem Relocation.ranges_destinationFault (r : Relocation) : r.destinationFault.ranges = r.ranges := by
  unfold Relocation.destinationFault
  split <;> rfl

theorem Relocation.ranges_onAbort (r : Relocation) (c : ChannelId) : (r.onAbort c).ranges = r.ranges := by
  simp only [Relocation.onAbort]
  split
  · exact Relocation.ranges_destinationFault _
  · rfl

theorem State.supply_quiet (s : State) (c : ChannelId) (n : PairNumber) (content : LineContent) :
    Quiet s (s.supply c n content) := s.setChannel_quiet c _

theorem State.copyOnAbort_quiet (s : State) (c : ChannelId) : Quiet s (s.copyOnAbort c) := by
  unfold State.copyOnAbort
  split
  · next r hr =>
    obtain ⟨channels, h, -⟩ := State.supplyAll_frame (r.pairs.filter (fun x => x.poisonedByAbort c))
      { s with copyEngine := .running (r.onAbort c) }
    rw [h]
    refine (s.copyEngine_quiet (e := .running (r.onAbort c)) ?_).trans .of_fields
    simp [hr, CopyEngine.running?, r.ranges_onAbort]
  · exact .refl s

theorem State.abortQueue_quiet (s : State) (c : ChannelId) : Quiet s (s.abortQueue c) :=
  ((Quiet.of_fields (s := s)).trans (State.applyFatesAll_quiet _ _)).trans (State.copyOnAbort_quiet _ c)

theorem State.copyOnFaultReport_quiet (s : State) (c : ChannelId) : Quiet s (s.copyOnFaultReport c) := by
  unfold State.copyOnFaultReport
  split
  · next r hr =>
    split
    · exact s.copyEngine_quiet (by simp [hr, CopyEngine.running?, r.ranges_destinationFault])
    · exact .refl s
  · exact .refl s

theorem State.reportFault_quiet (s : State) (c : ChannelId) : Quiet s (s.reportFault c) :=
  (((s.applyFatesAll_quiet _).trans (State.copyOnFaultReport_quiet _ c)).trans (State.offerNotices_quiet _ _)).trans
    (State.setChannel_quiet _ c _)

theorem State.enterFaulted_quiet (s : State) (c : ChannelId) : Quiet s (s.enterFaulted c) :=
  ((s.setChannel_quiet c _).trans (State.abortQueue_quiet _ c)).trans (State.reportFault_quiet _ c)

theorem State.answerDetection_quiet (s : State) (requester : Option MgmtPath) (st : MgmtStatus) (data : List Byte) :
    Quiet s (s.answerDetection requester st data) := by
  cases requester with
  | none => exact .refl s
  | some path => exact s.respond_quiet path _

/-! ## The steps of the map -/

/-- The record of an extent is neither CHANGING nor RELOCATING. -/
def Extent.settled (e : Extent) : Prop := e = .free ∨ ∃ b, e = .active b

/-- A record written by a change that commits at once (R125): from a settled record to a settled one that keeps the
share law and the windows, in the same range or in one that is free and inside the pool. -/
structure RecordEdit (s : State) (x : ExtentId) (e : Extent) : Prop where
  idle : s.active = none
  old : (s.extent x).settled
  new : e.settled
  share : ∀ b, e.body? = some b → (∀ a, (s.extent x).body? = some a → a.shareLaw = true) → b.shareLaw = true
  fits : ∀ b, e.body? = some b → (∀ a, (s.extent x).body? = some a → s.windowFits x a) → s.windowFits x b
  place : ∀ b, e.body? = some b →
    (∃ a, (s.extent x).body? = some a ∧ a.poolBase = b.poolBase ∧ a.length = b.length) ∨
    (b.poolBase + b.length ≤ s.layout.size ∧ ¬ s.occupied b.poolBase b.length)

/-- The start of handover `h` on the ACTIVE record `b` (R126). -/
structure HandoverStart (s : State) (h : Handover) (b : ExtentBody) : Prop where
  idle : s.active = none
  head : s.changeQueue.head? = some h.change
  record : s.extent h.extent = .active b
  confirm : h.phase = .confirm → (s.port h.losing).state = .opened
  share : b.shareLaw = true → (h.kind.apply h.losing b).shareLaw = true
  fits : s.windowFits h.extent b → s.windowFits h.extent (h.kind.apply h.losing b)

/-- The start of the relocation of the ACTIVE record `b` to a base (R124, R147). -/
structure RelocationStart (s : State) (x : ExtentId) (b : ExtentBody) (base : Nat) : Prop where
  idle : s.active = none
  engine : s.copyEngine = .idle
  record : s.extent x = .active b
  inside : base + b.length ≤ s.layout.size
  free : ¬ s.occupied base b.length

/-- What the end of a handover makes of the record: as it was (R136), or committed (R135). -/
def Handover.ends (h : Handover) (f : ExtentBody → ExtentBody) : Prop :=
  f = id ∨ f = fun b => (h.kind.apply h.losing b).advance

/-- What the end of a relocation makes of the record: as it was (R161), or at its target (R155). -/
def Relocation.ends (r : Relocation) (f : ExtentBody → ExtentBody) : Prop := f = id ∨ f = fun b => b.relocated r.targetBase

/-- The ways in which the map moves. -/
inductive MapStep : State → State → Prop where
  | quiet {s t : State} : Quiet s t → MapStep s t
  | trans {s t u : State} : MapStep s t → MapStep t u → MapStep s u
  | edit {s : State} {x : ExtentId} {e : Extent} : RecordEdit s x e → MapStep s (s.setExtent x e)
  | window {s : State} {p : PortId} {size : Nat} (idle : s.active = none)
      (covers : ∀ x b m, (s.extent x).body? = some b → b.mapping[p] = some m → m.windowBase + b.length ≤ size) :
      MapStep s (s.setPort p ((s.port p).withWindow size))
  | handoverStart {s : State} {h : Handover} {b : ExtentBody} : HandoverStart s h b →
      MapStep s { s.setExtent h.extent (.changing b h.change.id) with active := some h }
  | handoverEnd {s : State} {h : Handover} {f : ExtentBody → ExtentBody} (active : s.active = some h) (ends : h.ends f) :
      MapStep s { s.activate h.extent f with active := none }
  | relocationStart {s : State} {x : ExtentId} {b : ExtentBody} {base : Nat} : RelocationStart s x b base →
      MapStep s { s.setExtent x (.relocating b) with copyEngine := .running (newRelocation x b base) }
  | relocationEnd {s : State} {r : Relocation} {f : ExtentBody → ExtentBody} {e : CopyEngine}
      (running : s.copyEngine = .running r) (ends : r.ends f) (ended : e.running? = none) :
      MapStep s { s.activate r.extent f with copyEngine := e }
  | pool {s : State} {l : Layout} (h : s.layout.size ≤ l.size ∨ ∀ x : ExtentId, s.extent x = .free) :
      MapStep s { s with layout := l }
  | cleared {s t : State} (extents : ∀ x : ExtentId, t.extent x = .free) (active : t.active = none)
      (engine : t.copyEngine = .idle) : MapStep s t
  | preserved {s t : State} (extents : ∀ x : ExtentId, t.extent x = (s.extent x).atPreserve s.copyEngine)
      (windows : ∀ p : PortId, (t.port p).windowSize = (s.port p).windowSize) (size : t.layout.size = s.layout.size)
      (active : t.active = none) (engine : t.copyEngine = .idle) : MapStep s t

theorem MapStep.refl (s : State) : MapStep s s := .quiet (.refl s)

end Sys2Proof.Machine
end

section
/-! SUPPORT. The share law, the windows, the transient extents and the pool ranges are kept by every step of the map. -/

namespace Sys2Proof.Machine

/-! ## Records -/

theorem Extent.settled.not_changing {e : Extent} (h : e.settled) (b : ExtentBody) (id : Nat) : e ≠ .changing b id := by
  rcases h with rfl | ⟨a, rfl⟩ <;> simp

theorem Extent.settled.not_relocating {e : Extent} (h : e.settled) (b : ExtentBody) : e ≠ .relocating b := by
  rcases h with rfl | ⟨a, rfl⟩ <;> simp

section
variable (s : State) (x : ExtentId) (f : ExtentBody → ExtentBody)

theorem State.activate_port (p : PortId) : (s.activate x f).port p = s.port p := by
  obtain ⟨extents, h⟩ := s.activate_frame x f
  rw [h]; rfl

theorem State.activate_active : (s.activate x f).active = s.active := by
  obtain ⟨extents, h⟩ := s.activate_frame x f
  rw [h]

theorem State.activate_layout : (s.activate x f).layout = s.layout := by
  obtain ⟨extents, h⟩ := s.activate_frame x f
  rw [h]

theorem State.activate_copyEngine : (s.activate x f).copyEngine = s.copyEngine := by
  obtain ⟨extents, h⟩ := s.activate_frame x f
  rw [h]

end

theorem State.body?_of_free {s : State} {x : ExtentId} (h : s.extent x = .free) (b : ExtentBody) :
    (s.extent x).body? ≠ some b := by simp [h, Extent.body?]

theorem State.activate_extent_ne (s : State) {x y : ExtentId} (f : ExtentBody → ExtentBody) (h : y ≠ x) :
    (s.activate x f).extent y = s.extent y := by
  unfold State.activate
  split
  · rfl
  · exact State.setExtent_extent_ne s x _ y h

theorem State.activate_body?_self (s : State) (x : ExtentId) (f : ExtentBody → ExtentBody) :
    ((s.activate x f).extent x).body? = (s.extent x).body?.map f := by
  cases h : (s.extent x).body? with
  | none => simp [State.activate, h]
  | some b => rw [State.activate_some h, State.setExtent_extent_self]; rfl

/-- What an activated record holds: its own fields edited, and the other records as they were. -/
theorem State.activate_body? (s : State) (x : ExtentId) (f : ExtentBody → ExtentBody) (y : ExtentId) :
    ((s.activate x f).extent y).body? = if y = x then (s.extent x).body?.map f else (s.extent y).body? := by
  split
  · next e => rw [e, State.activate_body?_self]
  · next e => rw [State.activate_extent_ne s f e]

theorem Extent.eq_free_of_body? {e : Extent} (h : e.body? = none) : e = .free := by
  cases e <;> simp_all [Extent.body?]

/-- The record of a handover or of a relocation is settled by its end. -/
theorem State.activate_settled (s : State) (x : ExtentId) (f : ExtentBody → ExtentBody) :
    ((s.activate x f).extent x).settled := by
  cases h : (s.extent x).body? with
  | none => exact .inl (Extent.eq_free_of_body? (by simp [State.activate_body?_self, h]))
  | some b => exact .inr ⟨f b, by simp [State.activate, h]⟩

theorem Extent.atPreserve_body? (e : Extent) (copy : CopyEngine) :
    (e.atPreserve copy).body? = e.body? ∨
      ∃ b r, e = .relocating b ∧ copy = .running r ∧ r.phase = .finishing ∧
        (e.atPreserve copy).body? = some (b.relocated r.targetBase) := by
  cases e with
  | free => exact .inl rfl
  | active b => exact .inl rfl
  | changing b id => exact .inl rfl
  | relocating b =>
    cases copy with
    | idle => exact .inl rfl
    | ending record => exact .inl rfl
    | running r =>
      cases h : r.phase with
      | copying => simp [Extent.atPreserve, Extent.body?, Relocation.resolveCut, h]
      | finishing => exact .inr ⟨b, r, rfl, rfl, h, by simp [Extent.atPreserve, Extent.body?, Relocation.resolveCut, h]⟩
      | abandoning reason => simp [Extent.atPreserve, Extent.body?, Relocation.resolveCut, h]

theorem Extent.atPreserve_settled (e : Extent) (copy : CopyEngine) : (e.atPreserve copy).settled := by
  cases e with
  | free => exact .inl rfl
  | relocating b => cases copy <;> exact .inr ⟨_, rfl⟩
  | _ => exact .inr ⟨_, rfl⟩

/-! ## What a record grants -/

/-- The fields that decide who may access an extent, and at which addresses: length, share mode and mappings. -/
def ExtentBody.grant (b : ExtentBody) : Nat × ShareMode × Vector (Option Mapping) 4 := (b.length, b.share, b.mapping)

theorem ExtentBody.grant_eq {a b : ExtentBody} (e : a.grant = b.grant) :
    a.length = b.length ∧ a.share = b.share ∧ a.mapping = b.mapping := by simpa [ExtentBody.grant] using e

theorem ExtentBody.shareLaw_of_grant {a b : ExtentBody} (e : a.grant = b.grant) : a.shareLaw = b.shareLaw := by
  cases a
  cases b
  obtain ⟨-, rfl, rfl⟩ := ExtentBody.grant_eq e
  rfl

theorem HandoverKind.grant_apply {a b : ExtentBody} (e : a.grant = b.grant) (k : HandoverKind) (p : PortId) :
    (k.apply p a).grant = (k.apply p b).grant := by
  obtain ⟨h1, h2, h3⟩ := ExtentBody.grant_eq e
  cases k <;> simp [HandoverKind.apply, ExtentBody.setMapping, ExtentBody.setRights, ExtentBody.grant, h1, h2, h3]

theorem HandoverKind.apply_range (k : HandoverKind) (p : PortId) (b : ExtentBody) :
    (k.apply p b).poolBase = b.poolBase ∧ (k.apply p b).length = b.length := by cases k <;> exact ⟨rfl, rfl⟩

/-- Two states whose records grant the same. -/
def SameGrants (s t : State) : Prop :=
  ∀ x : ExtentId, (t.extent x).body?.map ExtentBody.grant = (s.extent x).body?.map ExtentBody.grant

theorem SameGrants.body {s t : State} (g : SameGrants s t) {x : ExtentId} {b : ExtentBody}
    (h : (t.extent x).body? = some b) : ∃ a, (s.extent x).body? = some a ∧ a.grant = b.grant := by
  have e : (s.extent x).body?.map ExtentBody.grant = some b.grant := by rw [← g x, h]; rfl
  exact Option.map_eq_some_iff.mp e

theorem SameGrants.of_body {s t : State} (h : ∀ x : ExtentId, (t.extent x).body? = (s.extent x).body?) :
    SameGrants s t := fun x => by rw [h]

theorem SameMap.grants {s t : State} (q : SameMap s t) : SameGrants s t := .of_body fun x => by rw [q.extent]

/-- A record of which only the state, the base and the generation change grants the same. -/
theorem SameGrants.activate (s : State) (x : ExtentId) {f : ExtentBody → ExtentBody} (h : ∀ b, (f b).grant = b.grant) :
    SameGrants s (s.activate x f) := fun y => by
  rw [State.activate_body?]
  split
  · next e => subst e; cases (s.extent y).body? <;> simp [h]
  · rfl

theorem Relocation.ends.grant {r : Relocation} {f : ExtentBody → ExtentBody} (h : r.ends f) (b : ExtentBody) :
    (f b).grant = b.grant := by
  rcases h with rfl | rfl <;> rfl

theorem SameGrants.atPreserve {s t : State} (h : ∀ x : ExtentId, t.extent x = (s.extent x).atPreserve s.copyEngine) :
    SameGrants s t := fun x => by
  rw [h]
  rcases (s.extent x).atPreserve_body? s.copyEngine with e | ⟨b, r, e, -, -, e'⟩
  · rw [e]
  · rw [e', e]; rfl

/-- A record kept as it was but for the state: the start of a handover or of a relocation. -/
theorem State.setExtent_body? {s : State} {x : ExtentId} {e : Extent} (h : e.body? = (s.extent x).body?) (y : ExtentId) :
    ((s.setExtent x e).extent y).body? = (s.extent y).body? := by
  rw [State.setExtent_extent]
  split
  · next k => rw [h, k]
  · rfl

/-! ## The share law (R8) -/

/-- The claims of a state's active handover stand in another. -/
def SameClaim (s t : State) : Prop := ∀ h, t.active = some h → ∃ g, s.active = some g ∧ g.claim = h.claim

theorem SameClaim.of_none {s t : State} (h : t.active = none) : SameClaim s t := fun g a => by cases h.symm.trans a

theorem SameClaim.of_eq {s t : State} (h : t.active = s.active) : SameClaim s t := fun g a => ⟨g, h ▸ a, rfl⟩

theorem State.shareLaw_congr {s t : State} (g : SameGrants s t) (c : SameClaim s t) (l : s.shareLaw) : t.shareLaw := by
  obtain ⟨records, coming⟩ := l
  constructor
  · intro x b h
    obtain ⟨a, ha, e⟩ := g.body h
    rw [← ExtentBody.shareLaw_of_grant e]
    exact records x a ha
  · intro h hh b hb
    obtain ⟨h', hh', ec⟩ := c h hh
    obtain ⟨-, ex, ep, ek⟩ := Handover.claim_eq ec
    obtain ⟨a, ha, e⟩ := g.body hb
    rw [← ek, ← ep, ← ExtentBody.shareLaw_of_grant (HandoverKind.grant_apply e _ _)]
    exact coming h' hh' a (ex ▸ ha)

/-- Every record keeps the share law where one record is written that keeps it. -/
theorem State.records_shareLaw_of_edit {s t : State} {x : ExtentId}
    (other : ∀ y : ExtentId, y ≠ x → (t.extent y).body? = (s.extent y).body?)
    (one : ∀ b, (t.extent x).body? = some b → b.shareLaw = true)
    (l : ∀ y : ExtentId, ∀ b, (s.extent y).body? = some b → b.shareLaw = true) :
    ∀ y : ExtentId, ∀ b, (t.extent y).body? = some b → b.shareLaw = true := fun y b hb =>
  if e : y = x then one b (e ▸ hb) else l y b (other y e ▸ hb)

theorem MapStep.keeps_shareLaw {s t : State} (m : MapStep s t) : s.shareLaw → t.shareLaw := by
  induction m with
  | quiet q => exact State.shareLaw_congr q.grants fun h a => q.active_some a
  | trans _ _ ih ih' => exact fun l => ih' (ih l)
  | @edit s x e d =>
    intro l
    refine ⟨State.records_shareLaw_of_edit (x := x) (fun y hy => by simp [hy]) (fun b hb => ?_) l.1,
      fun h a => by cases d.idle.symm.trans a⟩
    exact d.share b (by simpa using hb) fun a ha => l.1 x a ha
  | window idle _ => exact State.shareLaw_congr (fun _ => rfl) (.of_eq rfl)
  | @handoverStart s h b d =>
    intro l
    have bodies := State.setExtent_body? (s := s) (x := h.extent) (e := .changing b h.change.id) (by rw [d.record]; rfl)
    refine ⟨fun x b hb => l.1 x b ((bodies x).symm.trans hb), fun g hg a ha => ?_⟩
    obtain rfl := Option.some.inj hg
    have own : (s.extent h.extent).body? = some b := by rw [d.record]; rfl
    obtain rfl := Option.some.inj (own.symm.trans ((bodies h.extent).symm.trans ha))
    exact d.share (l.1 h.extent b own)
  | @handoverEnd s h f active ends =>
    intro l
    refine ⟨State.records_shareLaw_of_edit (s := s) (x := h.extent) (fun y hy => ?_) (fun b hb => ?_) l.1,
      fun g a => by cases a⟩
    · exact (s.activate_body? h.extent f y).trans (if_neg hy)
    · obtain ⟨a, ha, rfl⟩ : ∃ a, (s.extent h.extent).body? = some a ∧ f a = b := by
        simpa using (s.activate_body?_self h.extent f).symm.trans hb
      rcases ends with rfl | rfl
      · exact l.1 h.extent a ha
      · exact l.2 h active a ha
  | @relocationStart s x b base d =>
    refine State.shareLaw_congr (.of_body fun y => ?_) (.of_eq rfl)
    exact State.setExtent_body? (e := .relocating b) (by rw [d.record]; rfl) y
  | @relocationEnd s r f e running ends ended =>
    exact State.shareLaw_congr (fun x => SameGrants.activate s r.extent ends.grant x) (.of_eq (s.activate_active r.extent f))
  | pool _ => exact State.shareLaw_congr (fun _ => rfl) (.of_eq rfl)
  | cleared extents active _ =>
    exact fun _ => ⟨fun x b h => absurd h (State.body?_of_free (extents x) b), fun h a => by cases active.symm.trans a⟩
  | preserved extents _ _ active _ => exact State.shareLaw_congr (.atPreserve extents) (.of_none active)

/-! ## The windows (R6) -/

/-- Two states with the same window at every port. -/
def SameWindows (s t : State) : Prop := ∀ p : PortId, (t.port p).windowSize = (s.port p).windowSize

theorem State.windowTaken_of_grants {s t : State} (g : SameGrants s t) {x : ExtentId} {p : PortId} {wb length : Nat}
    (h : t.windowTaken x p wb length) : s.windowTaken x p wb length := by
  obtain ⟨seg, h1, h2, y, hy, b, m, hb, hm, h3, h4⟩ := h
  obtain ⟨a, ha, e⟩ := g.body hb
  obtain ⟨el, -, em⟩ := ExtentBody.grant_eq e
  exact ⟨seg, h1, h2, y, hy, a, m, ha, em ▸ hm, h3, el ▸ h4⟩

theorem State.windowFits_of_grants {s t : State} (g : SameGrants s t) (w : SameWindows s t) {x : ExtentId}
    {a b : ExtentBody} (e : a.grant = b.grant) (h : s.windowFits x a) : t.windowFits x b := by
  obtain ⟨el, -, em⟩ := ExtentBody.grant_eq e
  intro p m hm
  obtain ⟨h1, h2⟩ := h p m (em ▸ hm)
  exact ⟨by rw [w, ← el]; exact h1, fun k => h2 (by rw [el]; exact State.windowTaken_of_grants g k)⟩

theorem State.windowLaw_congr {s t : State} (g : SameGrants s t) (w : SameWindows s t) (c : SameClaim s t)
    (l : s.windowLaw) : t.windowLaw := by
  obtain ⟨records, coming⟩ := l
  constructor
  · intro x b hb
    obtain ⟨a, ha, e⟩ := g.body hb
    exact State.windowFits_of_grants g w e (records x a ha)
  · intro h hh b hb
    obtain ⟨h', hh', ec⟩ := c h hh
    obtain ⟨-, ex, ep, ek⟩ := Handover.claim_eq ec
    obtain ⟨a, ha, e⟩ := g.body hb
    rw [← ek, ← ep, ← ex]
    exact State.windowFits_of_grants g w (HandoverKind.grant_apply e _ _) (coming h' hh' a (ex ▸ ha))

/-- Every record fits its windows where one record is written that fits among the others: that two mappings share no
segment is said once for both. -/
theorem State.records_windowFits_of_edit {s t : State} {x : ExtentId} (w : SameWindows s t)
    (other : ∀ y : ExtentId, y ≠ x → (t.extent y).body? = (s.extent y).body?)
    (one : ∀ b, (t.extent x).body? = some b → s.windowFits x b)
    (l : ∀ y : ExtentId, ∀ b, (s.extent y).body? = some b → s.windowFits y b) :
    ∀ y : ExtentId, ∀ b, (t.extent y).body? = some b → t.windowFits y b := by
  intro y b hb p m hm
  by_cases e : y = x
  · subst e
    obtain ⟨h1, h2⟩ := one b hb p m hm
    refine ⟨by rw [w]; exact h1, ?_⟩
    rintro ⟨seg, k1, k2, z, hz, c, n, hc, hn, k3, k4⟩
    exact h2 ⟨seg, k1, k2, z, hz, c, n, other z hz ▸ hc, hn, k3, k4⟩
  · have hb' : (s.extent y).body? = some b := other y e ▸ hb
    obtain ⟨h1, h2⟩ := l y b hb' p m hm
    refine ⟨by rw [w]; exact h1, ?_⟩
    rintro ⟨seg, k1, k2, z, hz, c, n, hc, hn, k3, k4⟩
    by_cases ez : z = x
    · subst ez
      exact (one c hc p n hn).2 ⟨seg, k3, k4, y, e, b, m, hb', hm, k1, k2⟩
    · exact h2 ⟨seg, k1, k2, z, hz, c, n, other z ez ▸ hc, hn, k3, k4⟩

theorem MapStep.keeps_windowLaw {s t : State} (m : MapStep s t) : s.windowLaw → t.windowLaw := by
  induction m with
  | quiet q => exact State.windowLaw_congr q.grants q.windows fun h a => q.active_some a
  | trans _ _ ih ih' => exact fun l => ih' (ih l)
  | @edit s x e d =>
    intro l
    refine ⟨State.records_windowFits_of_edit (s := s) (x := x) (fun _ => rfl) (fun y hy => by simp [hy])
      (fun b hb => ?_) l.1, fun h a => by cases d.idle.symm.trans a⟩
    exact d.fits b (by simpa using hb) fun a ha => l.1 x a ha
  | @window s p size idle covers =>
    refine fun l => ⟨fun x b hb q m hm => ⟨?_, (l.1 x b hb q m hm).2⟩, fun h a => by cases idle.symm.trans a⟩
    rw [State.setPort_port]
    split
    · next e => exact covers x b m hb (e ▸ hm)
    · exact (l.1 x b hb q m hm).1
  | @handoverStart s h b d =>
    intro l
    have bodies := State.setExtent_body? (s := s) (x := h.extent) (e := .changing b h.change.id) (by rw [d.record]; rfl)
    have own : (s.extent h.extent).body? = some b := by rw [d.record]; rfl
    refine ⟨fun x b hb => ?_, fun g hg a ha => ?_⟩
    · exact (State.windowFits_congr bodies (fun _ => rfl) x b).mpr (l.1 x b ((bodies x).symm.trans hb))
    · obtain rfl := Option.some.inj hg
      obtain rfl := Option.some.inj (own.symm.trans ((bodies h.extent).symm.trans ha))
      exact (State.windowFits_congr bodies (fun _ => rfl) _ _).mpr (d.fits (l.1 h.extent b own))
  | @handoverEnd s h f active ends =>
    intro l
    refine ⟨State.records_windowFits_of_edit (s := s) (x := h.extent) (fun p => ?_) (fun y hy => ?_) (fun b hb => ?_) l.1,
      fun g a => by cases a⟩
    · exact congrArg LinkPort.windowSize (s.activate_port h.extent f p)
    · exact (s.activate_body? h.extent f y).trans (if_neg hy)
    · obtain ⟨a, ha, rfl⟩ : ∃ a, (s.extent h.extent).body? = some a ∧ f a = b := by
        simpa using (s.activate_body?_self h.extent f).symm.trans hb
      rcases ends with rfl | rfl
      · exact l.1 h.extent a ha
      · exact l.2 h active a ha
  | @relocationStart s x b base d =>
    refine State.windowLaw_congr (.of_body fun y => ?_) (fun _ => rfl) (.of_eq rfl)
    exact State.setExtent_body? (e := .relocating b) (by rw [d.record]; rfl) y
  | @relocationEnd s r f e running ends ended =>
    exact State.windowLaw_congr (fun x => SameGrants.activate s r.extent ends.grant x)
      (fun p => congrArg LinkPort.windowSize (s.activate_port r.extent f p)) (.of_eq (s.activate_active r.extent f))
  | pool _ => exact State.windowLaw_congr (fun _ => rfl) (fun _ => rfl) (.of_eq rfl)
  | cleared extents active _ =>
    exact fun _ => ⟨fun x b h => absurd h (State.body?_of_free (extents x) b), fun h a => by cases active.symm.trans a⟩
  | preserved extents windows _ active _ => exact State.windowLaw_congr (.atPreserve extents) windows (.of_none active)

end Sys2Proof.Machine
end

section
/-! SUPPORT. The transient extents stay with their handover and their relocation (R3, R10), and the pool ranges apart and
inside the pool (R4). -/

namespace Sys2Proof.Machine

/-! ## The transient extents (R3, R10) -/

theorem State.changingLaw_of_idle {t : State} (idle : t.active = none)
    (h : ∀ x b id, t.extent x ≠ .changing b id) : t.changingLaw :=
  ⟨fun g a => (by cases idle.symm.trans a), fun x b id k => absurd k (h x b id)⟩

theorem State.changingLaw.no_changing {s : State} (l : s.changingLaw) (idle : s.active = none) (x : ExtentId)
    (b : ExtentBody) (id : Nat) : s.extent x ≠ .changing b id := fun k => by
  obtain ⟨h, a, -⟩ := l.2 x b id k
  cases idle.symm.trans a

/-- A record that was not CHANGING and is not leaves the handover with its own. -/
theorem State.changingLaw_of_edit {s t : State} {x : ExtentId} (active : t.active = s.active)
    (queue : t.changeQueue = s.changeQueue) (port : ∀ p, t.port p = s.port p)
    (other : ∀ y : ExtentId, y ≠ x → t.extent y = s.extent y) (old : ∀ b id, s.extent x ≠ .changing b id)
    (new : ∀ b id, t.extent x ≠ .changing b id) (l : s.changingLaw) : t.changingLaw := by
  constructor
  · intro h a
    obtain ⟨head, ⟨b, k⟩, confirm⟩ := l.1 h (active ▸ a)
    have ne : h.extent ≠ x := fun e => old b _ (e ▸ k)
    exact ⟨queue ▸ head, ⟨b, (other _ ne).trans k⟩, fun c => port h.losing ▸ confirm c⟩
  · intro y b id k
    have ne : y ≠ x := fun e => new b id (e ▸ k)
    rw [active]
    exact l.2 y b id ((other y ne).symm.trans k)

theorem State.relocatingLaw_of_stopped {t : State} (stopped : t.copyEngine.running? = none)
    (h : ∀ x b, t.extent x ≠ .relocating b) : t.relocatingLaw :=
  ⟨fun r a => (by rw [a] at stopped; cases stopped), fun x b k => absurd k (h x b)⟩

/-- A record that was not RELOCATING and is not leaves the relocation with its own. -/
theorem State.relocatingLaw_of_edit {s t : State} {x : ExtentId} (engine : t.copyEngine = s.copyEngine)
    (other : ∀ y : ExtentId, y ≠ x → t.extent y = s.extent y) (old : ∀ b, s.extent x ≠ .relocating b)
    (new : ∀ b, t.extent x ≠ .relocating b) (l : s.relocatingLaw) : t.relocatingLaw := by
  constructor
  · intro r a
    obtain ⟨b, k, base, length⟩ := l.1 r (engine ▸ a)
    have ne : r.extent ≠ x := fun e => old b (e ▸ k)
    exact ⟨b, (other _ ne).trans k, base, length⟩
  · intro y b k
    have ne : y ≠ x := fun e => new b (e ▸ k)
    rw [engine]
    exact l.2 y b ((other y ne).symm.trans k)

theorem Quiet.keeps_changingLaw {s t : State} (q : Quiet s t) (l : s.changingLaw) : t.changingLaw := by
  constructor
  · intro h a
    obtain ⟨g, ag, e⟩ := q.active_some a
    obtain ⟨head, ⟨b, k⟩, confirm⟩ := l.1 g ag
    obtain ⟨echange, eextent, elosing, -⟩ := Handover.claim_eq e
    rw [← echange, ← eextent]
    refine ⟨q.head (by simp [ag]) _ head, ⟨b, (q.extent _).trans k⟩, fun c => ?_⟩
    obtain ⟨g', ag', c', o⟩ := q.confirm h a c
    obtain rfl := Option.some.inj (ag.symm.trans ag')
    exact o (elosing ▸ confirm c')
  · intro x b id k
    obtain ⟨g, ag, ex⟩ := l.2 x b id ((q.extent x).symm.trans k)
    obtain ⟨h, ah, e⟩ := q.active_of_some ag
    exact ⟨h, ah, (Handover.claim_eq e).2.1.trans ex⟩

theorem Quiet.keeps_relocatingLaw {s t : State} (q : Quiet s t) (l : s.relocatingLaw) : t.relocatingLaw := by
  constructor
  · intro r a
    obtain ⟨r', a', e⟩ := q.running a
    obtain ⟨eextent, ebase, -, elength⟩ := Relocation.ranges_eq e
    obtain ⟨b, k, base, length⟩ := l.1 r' a'
    exact ⟨b, by rw [q.extent, ← eextent, k], base.trans ebase, length.trans elength⟩
  · intro x b k
    obtain ⟨r, a, ex⟩ := l.2 x b ((q.extent x).symm.trans k)
    obtain ⟨r', a', e⟩ := q.running_of a
    exact ⟨r', a', (Relocation.ranges_eq e).1.trans ex⟩

theorem MapStep.keeps_extentLaw {s t : State} (m : MapStep s t) : s.extentLaw → t.extentLaw := by
  induction m with
  | quiet q => exact fun l => ⟨q.keeps_changingLaw l.1, q.keeps_relocatingLaw l.2⟩
  | trans _ _ ih ih' => exact fun l => ih' (ih l)
  | @edit s x e d =>
    intro l
    have other := State.setExtent_extent_ne s x e
    have new : (s.setExtent x e).extent x = e := State.setExtent_extent_self s x e
    exact ⟨State.changingLaw_of_edit (s := s) (x := x) rfl rfl (fun _ => rfl) other d.old.not_changing
        (new.symm ▸ d.new.not_changing) l.1,
      State.relocatingLaw_of_edit (s := s) (x := x) rfl other d.old.not_relocating (new.symm ▸ d.new.not_relocating) l.2⟩
  | window idle _ => exact fun l => ⟨State.changingLaw_of_idle idle (l.1.no_changing idle), l.2⟩
  | @handoverStart s h b d =>
    intro l
    have new : (s.setExtent h.extent (.changing b h.change.id)).extent h.extent = .changing b h.change.id :=
      State.setExtent_extent_self _ _ _
    have other := State.setExtent_extent_ne s h.extent (.changing b h.change.id)
    refine ⟨⟨fun g a => ?_, fun y c id k => ?_⟩,
      State.relocatingLaw_of_edit (s := s) (x := h.extent) rfl other (by simp [d.record]) ?_ l.2⟩
    · obtain rfl := Option.some.inj a
      exact ⟨d.head, ⟨b, new⟩, d.confirm⟩
    · by_cases e : y = h.extent
      · exact ⟨h, rfl, e.symm⟩
      · exact absurd ((other y e).symm.trans k) (l.1.no_changing d.idle y c id)
    · intro c k
      cases new.symm.trans k
  | @handoverEnd s h f active ends =>
    intro l
    have new := s.activate_settled h.extent f
    have other := fun y => s.activate_extent_ne (x := h.extent) (y := y) f
    obtain ⟨-, ⟨b, own⟩, -⟩ := l.1.1 h active
    refine ⟨State.changingLaw_of_idle rfl fun y c id k => ?_,
      State.relocatingLaw_of_edit (x := h.extent) (s.activate_copyEngine h.extent f) other (by simp [own])
        new.not_relocating l.2⟩
    by_cases e : y = h.extent
    · exact new.not_changing c id (e ▸ k)
    · obtain ⟨g, ag, eg⟩ := l.1.2 y c id ((other y e).symm.trans k)
      exact e (eg.symm.trans (congrArg Handover.extent (Option.some.inj (ag.symm.trans active))))
  | @relocationStart s x b base d =>
    intro l
    have new : (s.setExtent x (.relocating b)).extent x = .relocating b := State.setExtent_extent_self _ _ _
    have other := State.setExtent_extent_ne s x (.relocating b)
    refine ⟨State.changingLaw_of_edit (s := s) (x := x) rfl rfl (fun _ => rfl) other (by simp [d.record]) ?_ l.1,
      ?_, ?_⟩
    · intro c id k
      cases new.symm.trans k
    · rintro r ⟨rfl⟩
      exact ⟨b, new, rfl, rfl⟩
    · intro y c k
      by_cases e : y = x
      · exact ⟨_, rfl, e.symm⟩
      · obtain ⟨r, a, -⟩ := l.2.2 y c ((other y e).symm.trans k)
        cases d.engine.symm.trans a
  | @relocationEnd s r f e running ends ended =>
    intro l
    have new := s.activate_settled r.extent f
    have other := fun y => s.activate_extent_ne (x := r.extent) (y := y) f
    obtain ⟨b, own, -⟩ := l.2.1 r running
    obtain ⟨extents, k⟩ := s.activate_frame r.extent f
    refine ⟨State.changingLaw_of_edit (x := r.extent) (by rw [k]) (by rw [k]) (fun p => by rw [k]; rfl) other
      (by simp [own]) new.not_changing l.1, State.relocatingLaw_of_stopped ended fun y c h => ?_⟩
    by_cases ey : y = r.extent
    · exact new.not_relocating c (ey ▸ h)
    · obtain ⟨q, aq, eq⟩ := l.2.2 y c ((other y ey).symm.trans h)
      cases running.symm.trans aq
      exact ey eq.symm
  | pool _ => exact id
  | cleared extents active engine =>
    have settled : ∀ x : ExtentId, Extent.settled _ := fun x => .inl (extents x)
    exact fun _ => ⟨State.changingLaw_of_idle active fun x => (settled x).not_changing,
      State.relocatingLaw_of_stopped (by rw [engine]; rfl) fun x => (settled x).not_relocating⟩
  | preserved extents _ _ active engine =>
    have settled := fun x => extents x ▸ Extent.atPreserve_settled _ _
    exact fun _ => ⟨State.changingLaw_of_idle active fun x => (settled x).not_changing,
      State.relocatingLaw_of_stopped (by rw [engine]; rfl) fun x => (settled x).not_relocating⟩

/-! ## The pool ranges (R4) -/

theorem rangesShare_comm (a la b lb : Nat) : rangesShare a la b lb = rangesShare b lb a la := by
  rw [Bool.eq_iff_iff, rangesShare_iff, rangesShare_iff]
  exact exists_congr fun n => by omega

/-- A free range of the pool touches neither an extent nor the target range of the relocation. -/
theorem State.apart_of_not_occupied {s : State} {base length : Nat} (h : ¬ s.occupied base length) :
    (∀ x : ExtentId, ∀ b, (s.extent x).body? = some b → rangesShare b.poolBase b.length base length = false) ∧
    (∀ r, s.copyEngine = .running r → rangesShare r.targetBase r.segments base length = false) := by
  constructor
  · intro x b hb
    refine Bool.eq_false_iff.mpr fun k => h ?_
    obtain ⟨n, h1, h2, h3, h4⟩ := (rangesShare_iff ..).mp k
    exact ⟨n, h1, h2, .inl ⟨x, b, hb, h3, h4⟩⟩
  · intro r hr
    refine Bool.eq_false_iff.mpr fun k => h ?_
    obtain ⟨n, h1, h2, h3, h4⟩ := (rangesShare_iff ..).mp k
    exact ⟨n, h1, h2, .inr ⟨r, hr, h3, h4⟩⟩

/-- The pool range of a record. -/
def ExtentBody.range (b : ExtentBody) : Nat × Nat := (b.poolBase, b.length)

theorem ExtentBody.range_eq {a b : ExtentBody} (e : a.range = b.range) : a.poolBase = b.poolBase ∧ a.length = b.length := by
  simpa [ExtentBody.range] using e

/-- A range of the pool stands inside it and apart from every extent but `x`. -/
def State.placeFits (s : State) (x : ExtentId) (base length : Nat) : Prop :=
  base + length ≤ s.layout.size ∧
  ∀ y : ExtentId, y ≠ x → ∀ a, (s.extent y).body? = some a → rangesShare a.poolBase a.length base length = false

theorem State.segmentLaw.placeFits {s : State} (l : s.segmentLaw) {x : ExtentId} {b : ExtentBody}
    (h : (s.extent x).body? = some b) : s.placeFits x b.poolBase b.length :=
  ⟨l.2.1 x b h, fun y hy a ha => l.1 y x a b hy ha h⟩

/-- A record written in a range that stands apart from the other records and from the target range. -/
theorem State.segmentLaw_of_edit {s t : State} {x : ExtentId} (size : t.layout.size = s.layout.size)
    (engine : ∀ r, t.copyEngine = .running r → s.copyEngine = .running r)
    (other : ∀ y : ExtentId, y ≠ x → (t.extent y).body? = (s.extent y).body?)
    (one : ∀ b, (t.extent x).body? = some b → s.placeFits x b.poolBase b.length ∧
      ∀ r, t.copyEngine = .running r → rangesShare b.poolBase b.length r.targetBase r.segments = false)
    (l : s.segmentLaw) : t.segmentLaw := by
  refine ⟨fun y z a b ne ha hb => ?_, fun y b hb => ?_, fun r hr => ⟨?_, fun y b hb => ?_⟩⟩
  · by_cases ey : y = x
    · subst ey
      rw [rangesShare_comm]
      exact (one a ha).1.2 z ne.symm b (other z ne.symm ▸ hb)
    · by_cases ez : z = x
      · subst ez
        exact (one b hb).1.2 y ne a (other y ne ▸ ha)
      · exact l.1 y z a b ne (other y ey ▸ ha) (other z ez ▸ hb)
  · rw [size]
    by_cases ey : y = x
    · subst ey; exact (one b hb).1.1
    · exact l.2.1 y b (other y ey ▸ hb)
  · rw [size]; exact (l.2.2 r (engine r hr)).1
  · by_cases ey : y = x
    · subst ey; exact (one b hb).2 r hr
    · exact (l.2.2 r (engine r hr)).2 y b (other y ey ▸ hb)

/-- Records in the same ranges, in a pool that is no smaller, beside a relocation between the same ranges. -/
theorem State.segmentLaw_congr {s t : State}
    (ranges : ∀ x : ExtentId, (t.extent x).body?.map ExtentBody.range = (s.extent x).body?.map ExtentBody.range)
    (size : s.layout.size ≤ t.layout.size)
    (engine : ∀ r, t.copyEngine = .running r → ∃ q, s.copyEngine = .running q ∧ q.ranges = r.ranges)
    (l : s.segmentLaw) : t.segmentLaw := by
  have body : ∀ {x : ExtentId} {b}, (t.extent x).body? = some b →
      ∃ a, (s.extent x).body? = some a ∧ a.poolBase = b.poolBase ∧ a.length = b.length := by
    intro x b hb
    have e := ranges x
    rw [hb] at e
    obtain ⟨a, ha, k⟩ := Option.map_eq_some_iff.mp e.symm
    exact ⟨a, ha, ExtentBody.range_eq k⟩
  refine ⟨fun y z a b ne ha hb => ?_, fun y b hb => ?_, fun r hr => ?_⟩
  · obtain ⟨a', ha', ea, la⟩ := body ha
    obtain ⟨b', hb', eb, lb⟩ := body hb
    rw [← ea, ← la, ← eb, ← lb]
    exact l.1 y z a' b' ne ha' hb'
  · obtain ⟨b', hb', eb, lb⟩ := body hb
    rw [← eb, ← lb]
    exact Nat.le_trans (l.2.1 y b' hb') size
  · obtain ⟨q, hq, e⟩ := engine r hr
    obtain ⟨-, -, target, lines⟩ := Relocation.ranges_eq e
    obtain ⟨inside, apart⟩ := l.2.2 q hq
    rw [Relocation.segments, ← target, ← lines]
    refine ⟨Nat.le_trans inside size, fun y b hb => ?_⟩
    obtain ⟨b', hb', eb, lb⟩ := body hb
    rw [← eb, ← lb]
    exact apart y b' hb'

theorem State.activate_range (s : State) (x : ExtentId) {f : ExtentBody → ExtentBody} (h : ∀ b, (f b).range = b.range)
    (y : ExtentId) :
    ((s.activate x f).extent y).body?.map ExtentBody.range = (s.extent y).body?.map ExtentBody.range := by
  rw [State.activate_body?]
  split
  · next e => subst e; cases (s.extent y).body? <;> simp [h]
  · rfl

theorem Handover.ends.range {h : Handover} {f : ExtentBody → ExtentBody} (e : h.ends f) (b : ExtentBody) :
    (f b).range = b.range := by
  rcases e with rfl | rfl
  · rfl
  · obtain ⟨h1, h2⟩ := h.kind.apply_range h.losing b
    simp [ExtentBody.range, ExtentBody.advance, h1, h2]

theorem newRelocation_segments (x : ExtentId) (b : ExtentBody) (base : Nat) :
    (newRelocation x b base).segments = b.length := Nat.mul_div_cancel _ (by decide)

/-- The target range of a relocation is as long as its extent, and free for it (R147, R155). -/
theorem State.placementLaw.target {s : State} (l : s.placementLaw) {r : Relocation} (h : s.copyEngine = .running r)
    {b : ExtentBody} (hb : (s.extent r.extent).body? = some b) : s.placeFits r.extent r.targetBase b.length := by
  obtain ⟨c, own, -, length⟩ := l.1.2.1 r h
  obtain rfl : c = b := by rw [own] at hb; exact Option.some.inj hb
  have e : c.length = r.segments := by
    rw [Relocation.segments, ← length]
    exact (Nat.mul_div_cancel _ (by decide)).symm
  obtain ⟨inside, apart⟩ := l.2.2.2 r h
  rw [e]
  exact ⟨inside, fun y _ a ha => apart y a ha⟩

theorem MapStep.keeps_placementLaw {s t : State} (m : MapStep s t) : s.placementLaw → t.placementLaw := by
  suffices h : s.placementLaw → t.segmentLaw from fun l => ⟨m.keeps_extentLaw l.1, h l⟩
  induction m with
  | quiet q =>
    exact fun l => State.segmentLaw_congr (fun x => by rw [q.extent]) (Nat.le_of_eq q.size.symm) (fun r a => q.running a) l.2
  | trans m _ ih ih' => exact fun l => ih' ⟨m.keeps_extentLaw l.1, ih l⟩
  | @edit s x e d =>
    intro l
    refine State.segmentLaw_of_edit (s := s) (x := x) rfl (fun _ => id) (fun y hy => by simp [hy]) (fun b hb => ?_) l.2
    rcases d.place b (by simpa using hb) with ⟨a, ha, base, length⟩ | ⟨inside, free⟩
    · rw [← base, ← length]
      exact ⟨l.2.placeFits ha, fun r hr => (l.2.2.2 r hr).2 x a ha⟩
    · obtain ⟨records, target⟩ := State.apart_of_not_occupied free
      exact ⟨⟨inside, fun y _ a ha => records y a ha⟩, fun r hr => (rangesShare_comm ..).trans (target r hr)⟩
  | window _ _ => exact fun l => l.2
  | @handoverStart s h b d =>
    intro l
    have bodies := State.setExtent_body? (s := s) (x := h.extent) (e := .changing b h.change.id) (by rw [d.record]; rfl)
    exact State.segmentLaw_congr (fun y => congrArg (Option.map ExtentBody.range) (bodies y)) (Nat.le_refl _)
      (fun r a => ⟨r, a, rfl⟩) l.2
  | @handoverEnd s h f active ends =>
    intro l
    refine State.segmentLaw_congr (fun y => s.activate_range h.extent ends.range y) ?_ (fun r a => ⟨r, ?_, rfl⟩) l.2
    · exact Nat.le_of_eq (congrArg Layout.size (s.activate_layout h.extent f).symm)
    · exact (s.activate_copyEngine h.extent f).symm.trans a
  | @relocationStart s x b base d =>
    intro l
    have bodies := State.setExtent_body? (s := s) (x := x) (e := .relocating b) (by rw [d.record]; rfl)
    refine ⟨fun y z a c ne ha hc => l.2.1 y z a c ne ((bodies y).symm.trans ha) ((bodies z).symm.trans hc),
      fun y a ha => l.2.2.1 y a ((bodies y).symm.trans ha), ?_⟩
    rintro r ⟨rfl⟩
    rw [newRelocation_segments]
    exact ⟨d.inside, fun y a ha => (State.apart_of_not_occupied d.free).1 y a ((bodies y).symm.trans ha)⟩
  | @relocationEnd s r f e running ends ended =>
    intro l
    have stopped : ∀ q, e ≠ .running q := by rintro q rfl; cases ended
    refine State.segmentLaw_of_edit (s := s) (x := r.extent) (congrArg Layout.size (s.activate_layout r.extent f))
      (fun q a => absurd a (stopped q)) (fun y hy => (s.activate_body? r.extent f y).trans (if_neg hy))
      (fun b hb => ⟨?_, fun q a => absurd a (stopped q)⟩) l.2
    obtain ⟨a, ha, rfl⟩ : ∃ a, (s.extent r.extent).body? = some a ∧ f a = b := by
      simpa using (s.activate_body?_self r.extent f).symm.trans hb
    rcases ends with rfl | rfl
    · exact l.2.placeFits ha
    · exact l.target (b := a) running ha
  | @pool s layout h =>
    intro l
    rcases h with h | h
    · exact State.segmentLaw_congr (s := s) (fun _ => rfl) h (fun r a => ⟨r, a, rfl⟩) l.2
    · refine ⟨fun y _ a _ _ ha _ => absurd ha (State.body?_of_free (h y) a),
        fun y b hb => absurd hb (State.body?_of_free (h y) b), fun r a => ?_⟩
      obtain ⟨b, own, -⟩ := l.1.2.1 r a
      cases (h r.extent).symm.trans own
  | cleared extents _ engine =>
    exact fun _ => ⟨fun y _ a _ _ ha _ => absurd ha (State.body?_of_free (extents y) a),
      fun y b hb => absurd hb (State.body?_of_free (extents y) b), fun r a => by cases engine.symm.trans a⟩
  | @preserved s t extents _ size active engine =>
    intro l
    have stopped : ∀ r, t.copyEngine ≠ .running r := fun r a => by cases engine.symm.trans a
    by_cases running : ∃ r, s.copyEngine = .running r
    · obtain ⟨r, hr⟩ := running
      refine State.segmentLaw_of_edit (x := r.extent) size (fun q a => absurd a (stopped q)) (fun y hy => ?_)
        (fun b hb => ⟨?_, fun q a => absurd a (stopped q)⟩) l.2
      · rw [extents]
        rcases (s.extent y).atPreserve_body? s.copyEngine with e | ⟨b, q, own, -⟩
        · exact e
        · obtain ⟨q, hq, e⟩ := l.1.2.2 y b own
          cases hr.symm.trans hq
          exact absurd e.symm hy
      · rw [extents] at hb
        rcases (s.extent r.extent).atPreserve_body? s.copyEngine with e | ⟨c, q, own, hq, -, e⟩
        · exact l.2.placeFits (e ▸ hb)
        · cases hr.symm.trans hq
          cases e.symm.trans hb
          exact l.target (b := c) hr (by rw [own]; rfl)
    · refine State.segmentLaw_congr (fun x => ?_) (Nat.le_of_eq size.symm) (fun r a => absurd a (stopped r)) l.2
      rw [extents]
      rcases (s.extent x).atPreserve_body? s.copyEngine with e | ⟨_, r, _, hr, _⟩
      · rw [e]
      · exact absurd ⟨r, hr⟩ running

end Sys2Proof.Machine
end

section
/-! SUPPORT. Every command moves the map by the steps of `MapStep` alone: the Change Engine's starts and ends, the Copy
Engine's, the resets and the layout's requests; all the others are quiet. -/

namespace Sys2Proof.Machine

/-! ## The frames of a command -/

theorem MapStep.then_quiet {s t u : State} (m : MapStep s t) (q : Quiet t u) : MapStep s u := m.trans (.quiet q)

theorem Quiet.then_step {s t u : State} (q : Quiet s t) (m : MapStep t u) : MapStep s u := .trans (.quiet q) m

section
variable (s : State)

theorem State.whenRunning_mapStep {f : State → State} (h : MapStep s (f s)) : MapStep s (s.whenRunning f) := by
  unfold State.whenRunning
  split
  · exact h
  · exact .refl s

theorem State.onPacket_mapStep (p : PortId) {f : State → State} (h : MapStep s (f s)) : MapStep s (s.onPacket p f) := by
  rcases s.onPacket_cases p f with e | e <;> rw [e]
  · exact .refl s
  · exact h

/-- A request moves the map as its owning block does: it is taken before, and answered after, quietly. -/
theorem State.request_mapStep (path : MgmtPath) (kind : Byte) {act : State → State × Reply}
    (h : ∀ u, MapStep u (act u).1) : MapStep s (s.request path kind act) := by
  unfold State.request
  split
  · exact .refl s
  · cases path with
    | i2c => exact .refl s
    | inBand p => exact .quiet (s.send_quiet p _)
  · have m := (s.takeRequest_quiet path kind).then_step (h _)
    generalize act (s.takeRequest path kind) = result at m
    obtain ⟨t, reply⟩ := result
    cases reply with
    | now st data => exact m.then_quiet (State.respond_quiet _ path _)
    | later => exact m
    | nothing => exact m

theorem State.holderOnly_mapStep (path : MgmtPath) {act : State → State × Reply} (h : MapStep s (act s).1) :
    MapStep s (s.holderOnly path act).1 := by
  unfold State.holderOnly
  split
  · exact h
  · exact .refl s

end

/-! ## Handovers -/

/-- The end of an active handover: the record written, then the head change ended (R135, R136). -/
theorem State.endHandover_mapStep {s : State} {h : Handover} (a : s.active = some h) {f : ExtentBody → ExtentBody}
    (ends : h.ends f) (o : RecordOutcome) (l : List (PortId × NoticeBody)) :
    MapStep s ((s.activate h.extent f).endHead h.change o l) := by
  have idle : ({ s.activate h.extent f with active := none } : State).active = none := rfl
  have q := State.endHead_quiet _ idle h.change o l
  exact (MapStep.handoverEnd a ends).then_quiet q

theorem State.commitHandover_mapStep {s : State} {h : Handover} (a : s.active = some h) :
    MapStep s (s.commitHandover h) := s.endHandover_mapStep a (.inr rfl) _ _

theorem State.rollback_mapStep {s : State} {h : Handover} (a : s.active = some h) (o : RecordOutcome) :
    MapStep s (s.rollback h o) := s.endHandover_mapStep a (.inl rfl) _ _

/-- Entry to DRAIN from a state that stands in DRAIN already, but for the handover's own fields. -/
theorem State.enterDrain_mapStep {s t : State} (h : Handover) (c : Confirmation)
    (m : MapStep s { t with active := some (h.toDrain c t.limits.drain) }) : MapStep s (t.enterDrain h c) := by
  rcases t.enterDrain_cases h c with e | e <;> rw [e]
  · exact m
  · exact m.trans (State.commitHandover_mapStep rfl)

/-- The PENDING notice offered: the handover in CONFIRM stands with it sent or held (R127, R168). -/
theorem State.offerPending_mapStep {s t : State} (h : Handover)
    (m : ∀ n, MapStep s { t with active := some { h with pendingNotice := n, roomReported := false } }) :
    MapStep s (t.offerPending h) := by
  unfold State.offerPending
  split
  · exact (m _).then_quiet (State.offerNotice_quiet _ _ _)
  · exact m _

/-- A port leaves OPEN: a handover that it confirms by its loss enters DRAIN, and the map stays as it was else (R129). -/
theorem State.confirmByLoss_mapStep {s t : State} {p : PortId} (m : SameMap s t) (active : t.active = s.active)
    (opened : ∀ q, q ≠ p → (s.port q).state = .opened → (t.port q).state = .opened) :
    MapStep s (t.confirmByLoss p) := by
  unfold State.confirmByLoss
  split
  · next h a =>
    split
    · refine State.enterDrain_mapStep h .confirmedByLoss (.quiet { m with handover := ?_, confirm := ?_ })
      · rw [← active, a]; rfl
      · rintro g ⟨rfl⟩ c
        cases c
    · next other =>
      refine .quiet { m with confirm := fun g ag c => ⟨g, active ▸ ag, c, opened g.losing fun e => other ?_⟩ }
      obtain rfl := Option.some.inj (a.symm.trans ag)
      exact ⟨c, e⟩
  · next a => exact .quiet { m with confirm := fun g ag => by cases a.symm.trans ag }

/-! ## Ports -/

theorem State.resetPort_mapStep (s : State) (p : PortId) (target : PortState) (clear : Bool) :
    MapStep s (s.resetPort p target clear) := by
  let x : LinkPort := if clear then ((s.port p).drop target).clearCounters else (s.port p).drop target
  have window : x.windowSize = (s.port p).windowSize := by simp only [x]; split <;> rfl
  have blocks : Quiet (s.setPort p x) ((((s.setPort p x).setNoticeQueue p .empty).freeRole p).clearSlot p) :=
    ((State.setNoticeQueue_quiet _ p _).trans (State.freeRole_quiet _ p)).trans (State.clearSlot_quiet _ p)
  obtain ⟨channels, holder, e, -⟩ := ((s.setPort p x).setNoticeQueue p .empty).freeRole_clearSlot_frame p
  have loss := State.confirmByLoss_mapStep (s := s) (p := p) ((s.setPort_sameMap p window).trans blocks.toSameMap)
    (by rw [e]; rfl) (fun q hq o => by rw [e]; exact (congrArg LinkPort.state (s.setPort_port_ne p x q hq)).trans o)
  exact loss.then_quiet (State.applyFates_quiet _ p _)

/-- A port closed by PORT_CLOSE (R52). -/
theorem State.leaveOpen_mapStep {s t : State} {p : PortId} (m : SameMap s t) (active : t.active = s.active)
    (opened : ∀ q, q ≠ p → (s.port q).state = .opened → (t.port q).state = .opened) : MapStep s (t.leaveOpen p) := by
  have frame : ∀ u : State, (u.freeRole p).active = u.active ∧ ∀ q, (u.freeRole p).port q = u.port q := by
    intro u
    unfold State.freeRole
    split <;> exact ⟨rfl, fun _ => rfl⟩
  refine State.confirmByLoss_mapStep
    (m.trans ((t.setNoticeQueue_quiet p _).trans (State.freeRole_quiet _ p)).toSameMap) ?_ fun q hq o => ?_
  · rw [(frame _).1]; exact active
  · rw [(frame _).2]; exact opened q hq o

theorem State.completeClose_quiet (s : State) (p : PortId) : Quiet s (s.completeClose p) := by
  unfold State.completeClose
  split
  · next h => exact s.setPort_quiet p rfl fun o => by simp [h.1] at o
  · exact .refl s

theorem State.writePortClose_mapStep (s : State) (p : PortId) : MapStep s (s.writePortClose p) := by
  unfold State.writePortClose
  split
  · let t := s.setPort p { s.port p with state := .closing }
    obtain ⟨ports, e, same⟩ := t.sendAll_frame p [.configDone Word.portClose]
    have sent : t.send p (.configDone Word.portClose) = { t with ports := ports } := e
    refine MapStep.then_quiet ?_ (State.completeClose_quiet _ p)
    refine State.leaveOpen_mapStep ((s.setPort_sameMap p (by rfl)).trans (t.send_quiet p _).toSameMap) ?_ fun q hq o => ?_
    · rw [sent]; rfl
    · rw [sent]
      exact (LinkPort.quiet_fields (same q)).1.trans
        ((congrArg LinkPort.state (s.setPort_port_ne p _ q hq)).trans o)
  · exact .quiet (s.send_quiet p _)

theorem State.writeWindowAccept_quiet (s : State) (p : PortId) (value : BitVec 64) :
    Quiet s (s.writeWindowAccept p value) := by
  unfold State.writeWindowAccept
  split
  · split
    · exact (s.setPort_quiet p (by rfl) (by exact id)).trans (State.send_quiet _ p _)
    · exact s.send_quiet p _
  · exact s.send_quiet p _

theorem State.writePortOpen_quiet (s : State) (p : PortId) (value : BitVec 64) : Quiet s (s.writePortOpen p value) := by
  unfold State.writePortOpen
  split
  · split
    · exact s.send_quiet p _
    · exact (s.setPort_quiet p (by rfl) (by exact fun _ => rfl)).trans (State.send_quiet _ p _)
  · exact s.send_quiet p _

theorem State.configAccess_mapStep (s : State) (p : PortId) (access : ConfigAccess) :
    MapStep s (s.configAccess p access) := by
  unfold State.configAccess
  split
  · split <;> exact .quiet (s.send_quiet p _)
  · split
    · exact .quiet (s.send_quiet p _)
    · exact .quiet (s.send_quiet p _)
    · exact .quiet (s.send_quiet p _)
    · exact .quiet (s.writeWindowAccept_quiet p _)
    · exact .quiet (s.writePortOpen_quiet p _)
    · exact s.writePortClose_mapStep p
    · exact .quiet (s.send_quiet p _)

/-- A port that is not OPEN changes quietly with its window kept. -/
theorem State.setPort_closed_quiet (s : State) (p : PortId) {x : LinkPort} (w : x.windowSize = (s.port p).windowSize)
    (o : (s.port p).state ≠ .opened) : Quiet s (s.setPort p x) := s.setPort_quiet p w fun k => absurd k o

/-! ## Relocations -/

theorem State.finishCopy_mapStep {s t : State} (m : ∀ e : CopyEngine, e.running? = none →
    MapStep s { t with copyEngine := e }) (record : CompletionRecord) : MapStep s (t.finishCopy record) := by
  unfold State.finishCopy
  split
  · exact (m .idle rfl).then_quiet (State.postRecord_quiet _ record)
  · exact m _ rfl

theorem State.commitRelocation_mapStep {s : State} {r : Relocation} (h : s.copyEngine = .running r) :
    MapStep s (s.commitRelocation r) := State.finishCopy_mapStep (fun _ e => .relocationEnd h (.inr rfl) e) _

theorem State.endAbandon_mapStep {s : State} {r : Relocation} (h : s.copyEngine = .running r) (reason : AbandonReason) :
    MapStep s (s.endAbandon r reason) := State.finishCopy_mapStep (fun _ e => .relocationEnd h (.inl rfl) e) _

/-- A relocation that goes on between the same ranges. -/
theorem State.relocation_quiet {s : State} {r q : Relocation} (h : s.copyEngine = .running r) (e : q.ranges = r.ranges) :
    Quiet s { s with copyEngine := .running q } := s.copyEngine_quiet (by simp [h, CopyEngine.running?, e])

theorem State.finishIfCopied_mapStep (s : State) : MapStep s s.finishIfCopied := by
  unfold State.finishIfCopied
  split
  · next r h =>
    split
    · have q : Quiet s { s with copyEngine := .running { r with phase := .finishing } } := State.relocation_quiet h rfl
      dsimp only
      split
      · exact .quiet q
      · exact q.then_step (State.commitRelocation_mapStep rfl)
    · exact .refl s
  · exact .refl s

theorem State.copyWriteDone_mapStep (s : State) (n : PairNumber) : MapStep s (s.copyWriteDone n) := by
  unfold State.copyWriteDone
  split
  · next r h =>
    have q := State.relocation_quiet (q := r.updatePair n (fun x => { x with writePart := .done })) h rfl
    exact q.then_step (State.finishIfCopied_mapStep _)
  · exact .refl s

theorem State.copyReadDone_quiet (s : State) (n : PairNumber) (content : LineContent) :
    Quiet s (s.copyReadDone n content) := by
  unfold State.copyReadDone
  split
  · next r h =>
    split
    · exact .refl s
    · exact (State.relocation_quiet (q := r.onReadDone n content) h rfl).trans (State.supply_quiet _ _ n content)
  · exact .refl s

/-! ## Channels -/

theorem State.countOutcome_quiet (s : State) (c : ChannelId) (e : EccOutcome) (line : Nat) (origin : Position) :
    Quiet s (s.countOutcome c e line origin) := by
  cases e with
  | clean => exact .refl s
  | corrected => exact s.setChannel_quiet c _
  | uncorrectable => exact s.setChannel_quiet c _
  | poisoned => exact .refl s

theorem State.enqueue_quiet (s : State) (c : ChannelId) (action : OpAction) (line : Nat) (origin : Origin)
    (part : Option Part) : Quiet s (s.enqueue c action line origin part) := s.setChannel_quiet c _

theorem State.enqueueEntry_quiet (s : State) (p : PortId) (e : Entry) : Quiet s (s.enqueueEntry p e) := by
  unfold State.enqueueEntry
  split
  · exact s.enqueue_quiet _ _ _ _ _
  · exact s.enqueue_quiet _ _ _ _ _
  · exact (s.enqueue_quiet _ _ _ _ _).trans (State.enqueue_quiet _ _ _ _ _ _)

theorem State.admitEntry_quiet (s : State) (c : ChannelId) (p : PortId) (e : Entry) : Quiet s (s.admitEntry c p e) :=
  ((s.setTracker_quiet p _).trans (State.enqueueEntry_quiet _ p e)).trans (State.setChannel_quiet _ c _)

/-- The candidate's relocation is the one in progress. -/
theorem State.copyCandidate_running {s : State} {x : CopyCandidate} (h : s.copyCandidate = some x) :
    s.copyEngine = .running x.relocation := by
  unfold State.copyCandidate at h
  split at h
  · next r hr =>
    split at h
    · split at h
      · obtain rfl := Option.some.inj h; exact hr
      · cases h
    · cases h
  · cases h

theorem State.admitPair_quiet {s : State} {x : CopyCandidate} (h : s.copyCandidate = some x) (c : ChannelId)
    (n : PairNumber) : Quiet s (s.admitPair c x n) := by
  have q : Quiet s { s with copyEngine := .running (x.afterGrant n) } :=
    State.relocation_quiet (State.copyCandidate_running h) rfl
  unfold State.admitPair
  split
  · exact ((q.trans (State.enqueue_quiet _ _ _ _ _ _)).trans (State.enqueue_quiet _ _ _ _ _ _)).trans
      (State.setChannel_quiet _ c _)
  · exact (q.trans (State.enqueue_quiet _ _ _ _ _ _)).trans (State.setChannel_quiet _ c _)

theorem State.endDetection_quiet (s : State) (c : ChannelId) (fromFaulted : Bool) (requester : Option MgmtPath)
    (found : Option (Vector (Option Nat) 4)) : Quiet s (s.endDetection c fromFaulted requester found) := by
  unfold State.endDetection
  split
  · exact (s.enterFaulted_quiet c).trans (State.answerDetection_quiet _ _ _ _)
  · split
    · exact (s.setChannel_quiet c _).trans (State.answerDetection_quiet _ _ _ _)
    · split <;> exact (s.setChannel_quiet c _).trans (State.answerDetection_quiet _ _ _ _)

theorem State.faultEvent_quiet (s : State) (c : ChannelId) : Quiet s (s.faultEvent c) := by
  unfold State.faultEvent
  split
  · exact .refl s
  · exact .refl s
  · exact s.enterFaulted_quiet c
  · exact s.enterFaulted_quiet c
  · exact (s.enterFaulted_quiet c).trans (State.answerDetection_quiet _ _ _ _)

theorem State.faultInRetention_quiet (s : State) (c : ChannelId) : Quiet s (s.faultInRetention c) := by
  unfold State.faultInRetention
  split
  · exact s.setChannel_quiet c _
  · exact .refl s

theorem State.takeOffline_quiet (s : State) (c : ChannelId) : Quiet s (s.takeOffline c) :=
  (s.abortQueue_quiet c).trans (State.setChannel_quiet _ c _)

/-! ## Packets -/

theorem State.refuse_quiet (s : State) (p : PortId) (kind : ReqKind) (tag : Byte) (reason : AbortReason) :
    Quiet s (s.refuse p kind tag reason) := by
  unfold State.refuse
  split
  · exact (s.protocolError_quiet p _ _).trans (State.send_quiet _ p _)
  · exact s.send_quiet p _

theorem State.takeRequestPacket_quiet {s t : State} {p : PortId} {kind : ReqKind} {pkt : RawPacket} {ok : Bool}
    {mask : ByteMask} (h : s.takeRequestPacket p kind pkt ok mask = .next t) : Quiet s t := by
  unfold State.takeRequestPacket at h
  split at h
  · split at h
    · split at h
      · cases h; exact s.refuse_quiet p kind _ _
      · cases h; exact s.setTracker_quiet p _
      · cases h
    · cases h
      unfold State.refuseMalformed
      split
      · exact s.refuse_quiet p kind _ _
      · exact s.protocolError_quiet p _ _
  · cases h; exact .refl s

theorem State.takeData_quiet (s : State) (p : PortId) (tag half : Byte) (d : HalfData) :
    Quiet s (s.takeData p tag half d) := by
  unfold State.takeData
  split
  · split
    · exact s.setTracker_quiet p _
    · exact s.orphan_quiet p
  · exact s.orphan_quiet p

theorem State.reportAck_mapStep (s : State) (p : PortId) (removed : List Notice) : MapStep s (s.reportAck p removed) := by
  unfold State.reportAck
  split
  · exact .refl s
  · next h a =>
    split
    · exact State.enterDrain_mapStep h _ (.quiet (State.active_quiet a rfl (by intro c; cases c)))
    · split
      · exact .quiet (State.active_quiet a rfl id)
      · exact .refl s

end Sys2Proof.Machine
end

section
/-! SUPPORT. The starts of changes, the resets, and every command: what each makes of the map. -/

namespace Sys2Proof.Machine

/-! ## Starts of changes (R116 to R125) -/

/-- A change that commits at once ends with it. -/
theorem MapStep.endHead {s t : State} (m : MapStep s t) (idle : t.active = none) (ch : ChangeRecord) (o : RecordOutcome)
    (l : List (PortId × NoticeBody)) : MapStep s (t.endHead ch o l) := m.then_quiet (t.endHead_quiet idle ch o l)

/-- A start acts on the head change alone, while no change is active (R116). -/
theorem State.startHead_mapStep (s : State) {act : State → ChangeRecord → State}
    (h : ∀ ch, s.active = none → s.changeQueue.head? = some ch → MapStep s (act s ch)) : MapStep s (s.startHead act) := by
  refine s.whenRunning_mapStep ?_
  split
  · exact .refl s
  · next ch e =>
    unfold State.startable at e
    split at e
    · next k => exact h ch k.1 e
    · cases e

/-- A validated change moves the map only where all its checks pass (R117). -/
theorem State.validated_mapStep {s : State} (idle : s.active = none) (ch : ChangeRecord)
    {checks : List (Bool × RejectReason)} {pass : State → State}
    (h : (∀ x ∈ checks, x.1 = false) → MapStep s (pass s)) : MapStep s (s.validated ch checks pass) := by
  cases e : firstFailure checks with
  | none => rw [State.validated_pass e]; exact h (firstFailure_none.mp e)
  | some reason => rw [State.validated_fail e]; exact .quiet (s.endHead_quiet idle ch _ [])

theorem Extent.eq_active_of_isActive {e : Extent} (h : e.isActive = true) : ∃ b, e = .active b := by
  cases e <;> simp_all [Extent.isActive]

theorem Extent.eq_free_of_isFree {e : Extent} (h : e.isFree = true) : e = .free := by
  cases e <;> simp_all [Extent.isFree]

/-- The checks that every change of an ACTIVE record makes first. -/
theorem State.active_of_activeChecks {s : State} {x : ExtentId} {l : List (Bool × RejectReason)}
    (h : ∀ y ∈ s.activeChecks x ++ l, y.1 = false) : (∃ b, s.extent x = .active b) ∧ ∀ y ∈ l, y.1 = false := by
  simp only [State.activeChecks, List.forall_mem_append, List.forall_mem_cons, Bool.not_eq_false'] at h
  obtain ⟨⟨-, active, -⟩, rest⟩ := h
  exact ⟨Extent.eq_active_of_isActive active, rest⟩

section
variable {s : State} {x : ExtentId} {b : ExtentBody} (h : s.extent x = .active b)
include h

theorem State.body?_of_active : (s.extent x).body? = some b := by rw [h]; rfl

theorem State.lengthOf_of_active : s.lengthOf x = b.length := by
  simp only [State.lengthOf, State.body?_of_active h]

theorem State.breaksShare_of_active (f : ExtentBody → ExtentBody) : s.breaksShare x f = !(f b).shareLaw := by
  simp only [State.breaksShare, State.body?_of_active h]

theorem State.markChanging_of_active (id : Nat) : s.markChanging x id = s.setExtent x (.changing b id) := by
  simp only [State.markChanging, State.body?_of_active h]

/-- An edit of an ACTIVE record that stays in its range. -/
theorem RecordEdit.of_active {a : ExtentBody} (idle : s.active = none) (range : a.range = b.range)
    (share : b.shareLaw = true → a.shareLaw = true) (fits : s.windowFits x b → s.windowFits x a) :
    RecordEdit s x (.active a) where
  idle := idle
  old := .inr ⟨b, h⟩
  new := .inr ⟨_, rfl⟩
  share := by rintro c ⟨rfl⟩ k; exact share (k b (State.body?_of_active h))
  fits := by rintro c ⟨rfl⟩ k; exact fits (k b (State.body?_of_active h))
  place := by
    rintro c ⟨rfl⟩
    obtain ⟨base, length⟩ := ExtentBody.range_eq range
    exact .inl ⟨b, State.body?_of_active h, base.symm, length.symm⟩

/-- An immediate commit on an ACTIVE record (R125). -/
theorem State.commitImmediate_mapStep {f : ExtentBody → ExtentBody} (ch : ChangeRecord)
    (notices : Generation → List (PortId × NoticeBody)) (edit : RecordEdit s x (.active (f b))) :
    MapStep s (s.commitImmediate ch x f notices) := by
  have e : s.activate x f = s.setExtent x (.active (f b)) := State.activate_some (State.body?_of_active h) f
  unfold State.commitImmediate
  rw [e]
  exact (MapStep.edit edit).endHead edit.idle ch _ _

/-- A validated handover (R126): the record CHANGING, the handover in CONFIRM or DRAIN, or committed at once. -/
theorem State.startHandover_mapStep {ch : ChangeRecord} {losing : PortId} {kind : HandoverKind} (confirm force : Bool)
    (idle : s.active = none) (head : s.changeQueue.head? = some ch)
    (share : b.shareLaw = true → (kind.apply losing b).shareLaw = true)
    (fits : s.windowFits x b → s.windowFits x (kind.apply losing b)) :
    MapStep s (s.startHandover ch x losing kind confirm force) := by
  have starts : ∀ g : Handover, g.claim = (ch, x, losing, kind) →
      (g.phase = .confirm → (s.port losing).state = .opened) →
      MapStep s { s.setExtent x (.changing b ch.id) with active := some g } := by
    intro g e c
    obtain ⟨rfl, rfl, rfl, rfl⟩ : g.change = ch ∧ g.extent = x ∧ g.losing = losing ∧ g.kind = kind := by
      simpa [Handover.claim] using e
    exact .handoverStart
      { idle := idle, head := head, record := h, confirm := c, share := share, fits := fits }
  simp only [State.startHandover, State.markChanging_of_active h]
  split
  · split
    · next o => exact State.offerPending_mapStep _ fun _ => starts _ rfl fun _ => o
    · exact State.enterDrain_mapStep _ _ (starts _ rfl (by intro c; cases c))
  · exact State.enterDrain_mapStep _ _ (starts _ rfl (by intro c; cases c))

end

/-! ## The share law of a record edited (R8) -/

theorem twoWriters_of_imp {a b : Vector (Option Mapping) 4}
    (h : ∀ (p : PortId) (m : Mapping), b[p] = some m → m.rights = .readWrite → ∃ n, a[p] = some n ∧ n.rights = .readWrite)
    (w : twoWriters b) : twoWriters a := by
  obtain ⟨p, q, ne, m, n, hm, hn, rm, rn⟩ := w
  obtain ⟨m', hm', rm'⟩ := h p m hm rm
  obtain ⟨n', hn', rn'⟩ := h q n hn rn
  exact ⟨p, q, ne, m', n', hm', hn', rm', rn'⟩

/-- A record whose writers are among those of another, in the same share mode, keeps the share law with it. -/
theorem ExtentBody.shareLaw_of_imp {a b : ExtentBody} (e : b.share = a.share)
    (h : ∀ (p : PortId) (m : Mapping), b.mapping[p] = some m → m.rights = .readWrite →
      ∃ n, a.mapping[p] = some n ∧ n.rights = .readWrite) (l : a.shareLaw = true) : b.shareLaw = true := by
  cases k : b.shareLaw with
  | true => rfl
  | false =>
    obtain ⟨exclusive, w⟩ := (b.shareLaw_eq_false_iff).mp k
    rw [← l, (a.shareLaw_eq_false_iff).mpr ⟨e ▸ exclusive, twoWriters_of_imp h w⟩]

theorem ExtentBody.setMapping_mapping (b : ExtentBody) (p q : PortId) (m : Option Mapping) :
    (b.setMapping p m).mapping[q] = if q = p then m else b.mapping[q] := by
  simp only [ExtentBody.setMapping, Fin.getElem_fin, Vector.getElem_set, Fin.ext_iff, eq_comm]

/-- A mapping that is gone, or holds READ, adds no writer. -/
theorem ExtentBody.shareLaw_setMapping {b : ExtentBody} (p : PortId) {m : Option Mapping}
    (h : ∀ n, m = some n → n.rights = .read) (l : b.shareLaw = true) : (b.setMapping p m).shareLaw = true := by
  refine ExtentBody.shareLaw_of_imp (a := b) rfl (fun q n hn w => ?_) l
  rw [ExtentBody.setMapping_mapping] at hn
  split at hn
  · cases (h n hn).symm.trans w
  · exact ⟨n, hn, w⟩

theorem ExtentBody.shareLaw_setRights_read {b : ExtentBody} (p : PortId) (l : b.shareLaw = true) :
    (b.setRights p .read).shareLaw = true := by
  refine ExtentBody.shareLaw_setMapping p (fun n hn => ?_) l
  obtain ⟨m, -, rfl⟩ := Option.map_eq_some_iff.mp hn
  rfl

theorem ExtentBody.shareLaw_advance (b : ExtentBody) : b.advance.shareLaw = b.shareLaw :=
  ExtentBody.shareLaw_of_grant rfl

/-! ## Each kind of change -/

/-- A fresh record has no mapping (Table 39). -/
theorem newExtent_mapping (base length : Nat) (sh : ShareMode) (p : PortId) :
    (newExtent base length sh).mapping[p] = none := by simp [newExtent]

theorem execCreate_mapStep (s : State) : ∃ t, execCreate s = .next t ∧ MapStep s t := by
  refine ⟨_, rfl, s.startHead_mapStep fun ch idle head => ?_⟩
  split
  · next x base length sh _ =>
    refine State.validated_mapStep idle ch fun checks => ?_
    simp only [State.createChecks, List.forall_mem_cons, Bool.not_eq_false', decide_eq_false_iff_not,
      Nat.not_lt] at checks
    obtain ⟨-, -, free, inside, apart, -⟩ := checks
    have none : s.extent x = .free := Extent.eq_free_of_isFree free
    have edit : RecordEdit s x (.active (newExtent base length sh)) :=
      { idle := idle
        old := .inl none
        new := .inr ⟨_, rfl⟩
        share := by
          rintro b ⟨rfl⟩ -
          refine Bool.not_eq_false _ ▸ fun k => ?_
          obtain ⟨-, p, -, -, m, -, hm, -⟩ := (ExtentBody.shareLaw_eq_false_iff _).mp k
          cases (newExtent_mapping base length sh p).symm.trans hm
        fits := by
          rintro b ⟨rfl⟩ - p m hm
          cases (newExtent_mapping base length sh p).symm.trans hm
        place := by
          rintro b ⟨rfl⟩
          exact .inr ⟨inside, fun k => by rw [(s.overlapsPool_iff base length).mpr k] at apart; cases apart⟩ }
    exact (MapStep.edit edit).endHead idle ch _ []
  · exact .refl s

theorem execRetire_mapStep (s : State) : ∃ t, execRetire s = .next t ∧ MapStep s t := by
  refine ⟨_, rfl, s.startHead_mapStep fun ch idle head => ?_⟩
  split
  · next x _ =>
    refine State.validated_mapStep idle ch fun checks => ?_
    obtain ⟨⟨b, active⟩, -⟩ := State.active_of_activeChecks checks
    have edit : RecordEdit s x .free :=
      { idle := idle
        old := .inr ⟨b, active⟩
        new := .inl rfl
        share := fun c hc => by cases hc
        fits := fun c hc => by cases hc
        place := fun c hc => by cases hc }
    exact (MapStep.edit edit).endHead idle ch _ []
  · exact .refl s

theorem execMap_mapStep (s : State) : ∃ t, execMap s = .next t ∧ MapStep s t := by
  refine ⟨_, rfl, s.startHead_mapStep fun ch idle head => ?_⟩
  split
  · next x p wb r _ =>
    refine State.validated_mapStep idle ch fun checks => ?_
    obtain ⟨⟨b, active⟩, rest⟩ := State.active_of_activeChecks checks
    simp only [List.forall_mem_cons, State.lengthOf_of_active active, State.breaksShare_of_active active,
      decide_eq_false_iff_not, Nat.not_lt] at rest
    obtain ⟨-, inside, apart, share, -⟩ := rest
    refine State.commitImmediate_mapStep active ch _ (.of_active active idle rfl (fun l => ?_) fun k => ?_)
    · rw [ExtentBody.shareLaw_advance]
      cases r with
      | read => exact ExtentBody.shareLaw_setMapping p (by rintro n ⟨rfl⟩; rfl) l
      | readWrite => simpa using share
    · refine State.windowFits_setMapping_some (m := { windowBase := wb, rights := r }) k inside fun taken => ?_
      rw [(s.overlapsWindow_iff x p wb b.length).mpr taken] at apart
      cases apart
  · exact .refl s

theorem execSetShare_mapStep (s : State) : ∃ t, execSetShare s = .next t ∧ MapStep s t := by
  refine ⟨_, rfl, s.startHead_mapStep fun ch idle head => ?_⟩
  split
  · next x sh _ =>
    refine State.validated_mapStep idle ch fun checks => ?_
    obtain ⟨⟨b, active⟩, rest⟩ := State.active_of_activeChecks checks
    simp only [List.forall_mem_cons, State.breaksShare_of_active active] at rest
    refine State.commitImmediate_mapStep active ch _ (.of_active active idle rfl (fun _ => ?_) id)
    cases sh with
    | exclusive => simpa using rest.1
    | shared => rfl
  · exact .refl s

theorem execSetWindow_mapStep (s : State) : ∃ t, execSetWindow s = .next t ∧ MapStep s t := by
  refine ⟨_, rfl, s.startHead_mapStep fun ch idle head => ?_⟩
  split
  · next p size _ =>
    refine State.validated_mapStep idle ch fun checks => ?_
    simp only [State.setWindowChecks, List.forall_mem_cons, List.any_eq_false] at checks
    obtain ⟨-, covers, -⟩ := checks
    have window : MapStep s (s.setPort p ((s.port p).withWindow size)) := by
      refine .window idle fun x b m hb hm => ?_
      simpa [State.mappingOf, State.lengthOf, hb, hm] using covers x (mem_allExtents x)
    exact window.endHead idle ch _ []
  · exact .refl s

theorem State.applyRights_mapStep {s : State} {ch : ChangeRecord} {x : ExtentId} {p : PortId} {r : Rights} {b : ExtentBody}
    (confirm force : Bool) (idle : s.active = none) (head : s.changeQueue.head? = some ch)
    (active : s.extent x = .active b)
    (share : (s.isUpgrade x p r && s.breaksShare x (fun b => b.setRights p .readWrite)) = false) :
    MapStep s (s.applyRights ch x p r confirm force) := by
  unfold State.applyRights
  split
  · exact .refl s
  · next m hm =>
    split
    · exact .quiet (s.endHead_quiet idle ch _ [])
    · next ne =>
      cases r with
      | readWrite =>
        refine State.commitImmediate_mapStep active ch _
          (.of_active active idle rfl (fun _ => ?_) fun k => State.windowFits_setRights k p .readWrite)
        have upgrade : s.isUpgrade x p .readWrite = true := by
          cases e : m.rights with
          | read => simp [State.isUpgrade, hm, e]
          | readWrite => exact absurd e ne
        simpa [upgrade, State.breaksShare_of_active active, ExtentBody.shareLaw_advance] using share
      | read =>
        exact State.startHandover_mapStep active confirm force idle head (ExtentBody.shareLaw_setRights_read p)
          fun k => State.windowFits_setRights k p .read

theorem execSetRights_mapStep (s : State) : ∃ t, execSetRights s = .next t ∧ MapStep s t := by
  refine ⟨_, rfl, s.startHead_mapStep fun ch idle head => ?_⟩
  split
  · next x p r confirm force _ =>
    refine State.validated_mapStep idle ch fun checks => ?_
    obtain ⟨⟨b, active⟩, rest⟩ := State.active_of_activeChecks checks
    simp only [List.forall_mem_cons] at rest
    exact State.applyRights_mapStep confirm force idle head active rest.2.1
  · exact .refl s

theorem execUnmap_mapStep (s : State) : ∃ t, execUnmap s = .next t ∧ MapStep s t := by
  refine ⟨_, rfl, s.startHead_mapStep fun ch idle head => ?_⟩
  split
  · next x p confirm force _ =>
    refine State.validated_mapStep idle ch fun checks => ?_
    obtain ⟨⟨b, active⟩, -⟩ := State.active_of_activeChecks checks
    exact State.startHandover_mapStep active confirm force idle head
      (ExtentBody.shareLaw_setMapping p (by intro n hn; cases hn)) fun k => State.windowFits_setMapping_none k p
  · exact .refl s

theorem execTransfer_mapStep (s : State) : ∃ t, execTransfer s = .next t ∧ MapStep s t := by
  refine ⟨_, rfl, s.startHead_mapStep fun ch idle head => ?_⟩
  split
  · next x f p wb r confirm force _ =>
    refine State.validated_mapStep idle ch fun checks => ?_
    obtain ⟨⟨b, active⟩, rest⟩ := State.active_of_activeChecks checks
    simp only [List.forall_mem_cons, State.lengthOf_of_active active, State.breaksShare_of_active active,
      decide_eq_false_iff_not, Nat.not_lt, Bool.not_eq_false'] at rest
    obtain ⟨-, -, inside, apart, share, -⟩ := rest
    refine State.startHandover_mapStep active confirm force idle head (fun _ => share) fun k => ?_
    refine State.windowFits_setMapping_some (m := { windowBase := wb, rights := r })
      (State.windowFits_setMapping_none k f) inside fun taken => ?_
    rw [(s.overlapsWindow_iff x p wb b.length).mpr taken] at apart
    cases apart
  · exact .refl s

theorem execRelocate_mapStep (s : State) : ∃ t, execRelocate s = .next t ∧ MapStep s t := by
  refine ⟨_, rfl, s.startHead_mapStep fun ch idle head => ?_⟩
  split
  · next x base _ =>
    refine State.validated_mapStep idle ch fun checks => ?_
    obtain ⟨⟨b, active⟩, rest⟩ := State.active_of_activeChecks checks
    simp only [List.forall_mem_cons, State.lengthOf_of_active active, decide_eq_false_iff_not, Nat.not_lt,
      Decidable.not_not] at rest
    obtain ⟨engine, inside, apart, -⟩ := rest
    have start : RelocationStart s x b base :=
      { idle := idle, engine := engine, record := active, inside := inside
        free := fun k => by rw [(s.overlapsPool_iff base b.length).mpr k] at apart; cases apart }
    simp only [State.startRelocation, State.body?_of_active active]
    exact (MapStep.relocationStart start).endHead idle ch _ []
  · exact .refl s

end Sys2Proof.Machine
end

section
/-! SUPPORT. Every command moves the map by the steps of `MapStep` alone. -/

namespace Sys2Proof.Machine

/-! ## The Change Engine's timers and ends -/

theorem execConfirmTimerExpiry_mapStep (s : State) : ∃ t, execConfirmTimerExpiry s = .next t ∧ MapStep s t := by
  refine ⟨_, rfl, s.whenRunning_mapStep ?_⟩
  split
  · exact .refl s
  · next h a =>
    split
    · exact State.rollback_mapStep a _
    · exact .refl s

theorem State.applyFates_active (s : State) (p : PortId) (f : Entry → Fate) : (s.applyFates p f).active = s.active := by
  obtain ⟨ports, e, -⟩ := s.applyFates_frame p f
  rw [e]; rfl

/-- The aborts of a forced drain are quiet, and the handover commits when nothing counted is left (R134). -/
theorem State.forceDrain_mapStep {s : State} {h : Handover} (a : s.active = some h) : MapStep s (s.forceDrain h) := by
  have aborted : ∀ n, Quiet s { s.applyFates h.losing (Entry.onForceAbort h.extent h.writesOnly) with
      active := some (h.afterForce n) } := fun n =>
    (s.applyFates_quiet h.losing _).trans (State.active_quiet ((s.applyFates_active h.losing _).trans a) rfl id)
  simp only [State.forceDrain]
  split
  · exact (aborted _).then_step (State.commitHandover_mapStep rfl)
  · exact .quiet (aborted _)

theorem execDrainTimerExpiry_mapStep (s : State) : ∃ t, execDrainTimerExpiry s = .next t ∧ MapStep s t := by
  refine ⟨_, rfl, s.whenRunning_mapStep ?_⟩
  split
  · exact .refl s
  · next h a =>
    split
    · split
      · exact State.forceDrain_mapStep a
      · exact State.rollback_mapStep a _
    · exact .refl s

theorem execHandoverCommit_mapStep (s : State) : ∃ t, execHandoverCommit s = .next t ∧ MapStep s t := by
  refine ⟨_, rfl, s.whenRunning_mapStep ?_⟩
  split
  · exact .refl s
  · next h a =>
    split
    · exact State.commitHandover_mapStep a
    · exact .refl s

theorem execPendingNoticeReoffer_mapStep (s : State) : ∃ t, execPendingNoticeReoffer s = .next t ∧ MapStep s t := by
  refine ⟨_, rfl, s.whenRunning_mapStep ?_⟩
  split
  · exact .refl s
  · next h a =>
    split
    · exact State.offerPending_mapStep h fun _ => .quiet (State.active_quiet a rfl id)
    · exact .refl s

/-! ## The Copy Engine's ends -/

theorem execRelocationCommit_mapStep (s : State) : ∃ t, execRelocationCommit s = .next t ∧ MapStep s t := by
  refine ⟨_, rfl, s.whenRunning_mapStep ?_⟩
  split
  · next r h =>
    split
    · exact State.commitRelocation_mapStep h
    · exact .refl s
  · exact .refl s

theorem execAbandonEnd_mapStep (s : State) : ∃ t, execAbandonEnd s = .next t ∧ MapStep s t := by
  refine ⟨_, rfl, s.whenRunning_mapStep ?_⟩
  split
  · next r h =>
    split
    · split
      · exact State.endAbandon_mapStep h _
      · exact .refl s
    · exact .refl s
  · exact .refl s

theorem execEndRecordPost_mapStep (s : State) : ∃ t, execEndRecordPost s = .next t ∧ MapStep s t := by
  refine ⟨_, rfl, s.whenRunning_mapStep ?_⟩
  split
  · next record h =>
    split
    · exact .quiet ((s.copyEngine_quiet (e := .idle) (by rw [h]; rfl)).trans (State.postRecord_quiet _ record))
    · exact .refl s
  · exact .refl s

/-! ## Packets and channels -/

theorem execNoticeAck_mapStep (p : PortId) (pkt : RawPacket) (s : State) :
    ∃ t, execNoticeAck p pkt s = .next t ∧ MapStep s t := by
  refine ⟨_, rfl, s.onPacket_mapStep p ?_⟩
  split
  · split
    · exact .quiet (s.protocolError_quiet p _ _)
    · exact (s.setNoticeQueue_quiet p _).then_step (State.reportAck_mapStep _ p _)
  · exact .quiet (s.protocolError_quiet p _ _)

theorem execAdmission_mapStep (c : ChannelId) (s : State) : ∃ t, execAdmission c s = .next t ∧ MapStep s t := by
  refine ⟨_, rfl, s.whenRunning_mapStep ?_⟩
  split
  · exact .refl s
  · split
    · exact .refl s
    · exact .quiet (s.admitEntry_quiet c _ _)

theorem execCopyPairAdmission_mapStep (c : ChannelId) (s : State) :
    ∃ t, execCopyPairAdmission c s = .next t ∧ MapStep s t := by
  refine ⟨_, rfl, s.whenRunning_mapStep ?_⟩
  split
  · split
    · exact .refl s
    · next x h =>
      split
      · exact .refl s
      · exact .quiet (State.admitPair_quiet h c _)
  · exact .refl s

theorem execReadComplete_mapStep (c : ChannelId) (p : PortId) (tag : Byte) (media : MediaResult) (s : State) :
    ∃ t, execReadComplete c p tag media s = .next t ∧ MapStep s t := by
  refine ⟨_, rfl, s.whenRunning_mapStep ?_⟩
  dsimp only
  split
  · exact .refl s
  · exact .quiet (((s.setChannel_quiet c _).trans (State.countOutcome_quiet _ c _ _ _)).trans
      (State.applyFates_quiet _ p _))

theorem execWriteComplete_mapStep (c : ChannelId) (p : PortId) (tag : Byte) (part : Option Part) (media : MediaResult)
    (s : State) : ∃ t, execWriteComplete c p tag part media s = .next t ∧ MapStep s t := by
  refine ⟨_, rfl, s.whenRunning_mapStep ?_⟩
  dsimp only
  split
  · exact .refl s
  · exact .quiet (((s.setChannel_quiet c _).trans (State.countOutcome_quiet _ c _ _ _)).trans
      (State.applyFates_quiet _ p _))

theorem execCopyReadComplete_mapStep (c : ChannelId) (pair : PairNumber) (media : MediaResult) (s : State) :
    ∃ t, execCopyReadComplete c pair media s = .next t ∧ MapStep s t := by
  refine ⟨_, rfl, s.whenRunning_mapStep ?_⟩
  dsimp only
  split
  · exact .refl s
  · exact .quiet (((s.setChannel_quiet c _).trans (State.countOutcome_quiet _ c _ _ _)).trans
      (State.copyReadDone_quiet _ pair _))

theorem execCopyWriteComplete_mapStep (c : ChannelId) (pair : PairNumber) (s : State) :
    ∃ t, execCopyWriteComplete c pair s = .next t ∧ MapStep s t := by
  refine ⟨_, rfl, s.whenRunning_mapStep ?_⟩
  dsimp only
  split
  · exact .refl s
  · split
    · exact (s.setChannel_quiet c _).then_step (State.copyWriteDone_mapStep _ pair)
    · exact .refl s

theorem execDetectionEnd_mapStep (c : ChannelId) (slot0 slot1 slot2 slot3 : SlotReport) (s : State) :
    ∃ t, execDetectionEnd c slot0 slot1 slot2 slot3 s = .next t ∧ MapStep s t := by
  refine ⟨_, rfl, s.whenRunning_mapStep ?_⟩
  split
  · exact .quiet (s.endDetection_quiet c _ _ _)
  · exact .refl s

theorem execFillEnd_mapStep (c : ChannelId) (s : State) : ∃ t, execFillEnd c s = .next t ∧ MapStep s t := by
  refine ⟨_, rfl, s.whenRunning_mapStep ?_⟩
  split
  · exact .quiet (s.setChannel_quiet c _)
  · exact .refl s

theorem execChannelFault_mapStep (c : ChannelId) (s : State) : ∃ t, execChannelFault c s = .next t ∧ MapStep s t := by
  refine ⟨_, rfl, ?_⟩
  split
  · exact .refl s
  · exact .quiet (s.faultInRetention_quiet c)
  · exact .quiet (s.faultEvent_quiet c)

theorem execPacketCrcDrop_mapStep (p : PortId) (bytes : List Byte) (s : State) :
    ∃ t, execPacketCrcDrop p bytes s = .next t ∧ MapStep s t := by
  refine ⟨_, rfl, s.onPacket_mapStep p ?_⟩
  split
  · exact .quiet (s.setPort_quiet p rfl id)
  · exact .refl s

theorem execUndefinedPacket_mapStep (p : PortId) (kind : Byte) (pkt : RawPacket) (s : State) :
    ∃ t, execUndefinedPacket p kind pkt s = .next t ∧ MapStep s t := by
  refine ⟨_, rfl, s.onPacket_mapStep p ?_⟩
  split
  · exact .quiet (s.protocolError_quiet p _ _)
  · exact .refl s

theorem execWdata_mapStep (p : PortId) (pkt : RawPacket) (s : State) : ∃ t, execWdata p pkt s = .next t ∧ MapStep s t := by
  refine ⟨_, rfl, s.onPacket_mapStep p ?_⟩
  split
  · exact .quiet (s.takeData_quiet p _ _ _)
  · exact .quiet (s.protocolError_quiet p _ _)

/-! ## Link events -/

theorem execPartnerDetected_mapStep (p : PortId) (s : State) : ∃ t, execPartnerDetected p s = .next t ∧ MapStep s t := by
  refine ⟨_, rfl, s.whenRunning_mapStep ?_⟩
  split
  · next h => exact .quiet (s.setPort_closed_quiet p rfl (by simp [h]))
  · exact .refl s

theorem execTrainingComplete_mapStep (p : PortId) (s : State) :
    ∃ t, execTrainingComplete p s = .next t ∧ MapStep s t := by
  refine ⟨_, rfl, s.whenRunning_mapStep ?_⟩
  split
  · next h => exact .quiet (s.setPort_closed_quiet p rfl (by simp [h]))
  · exact .refl s

theorem execLinkLost_mapStep (p : PortId) (s : State) : ∃ t, execLinkLost p s = .next t ∧ MapStep s t := by
  have down (h : (s.port p).state ≠ .opened) : MapStep s ((s.setPort p ((s.port p).drop .down)).setNoticeQueue p .empty) :=
    .quiet ((s.setPort_closed_quiet p (by rfl) h).trans (State.setNoticeQueue_quiet _ p _))
  refine ⟨_, rfl, s.whenRunning_mapStep ?_⟩
  split
  · next h => exact down (by simp [h])
  · next h => exact down (by simp [h])
  · exact s.resetPort_mapStep p .down false
  · exact s.resetPort_mapStep p .down false
  · exact .refl s
  · exact .refl s
  · exact .refl s

theorem execBringUpTimerExpiry_mapStep (p : PortId) (s : State) :
    ∃ t, execBringUpTimerExpiry p s = .next t ∧ MapStep s t := by
  refine ⟨_, rfl, s.whenRunning_mapStep ?_⟩
  split
  · next h => exact .quiet (s.setPort_closed_quiet p rfl fun o => by simp [o] at h)
  · exact .refl s

/-! ## Power and reset -/

theorem State.atPowerOn_mapStep (s : State) (power : Power) (straps : Straps) : MapStep s (s.atPowerOn power straps) :=
  .cleared (fun x => by simp [State.extent, State.atPowerOn, State.reset]) rfl rfl

theorem State.extent_beginReset (s : State) (cause : ResetCause) (x : ExtentId) :
    (s.beginReset cause).extent x =
      if s.layout.preserve then (s.extent x).atPreserve s.copyEngine else .free := by
  simp only [State.extent, State.beginReset, State.extentsAtReset]
  split <;> simp

theorem State.port_beginReset (s : State) (cause : ResetCause) (p : PortId) :
    (s.beginReset cause).port p = (s.port p).atBridgeReset s.layout.preserve := by
  simp [State.port, State.beginReset]

/-- A bridge reset resolves the transient extents with preserve, and frees every extent without (R21, R22). -/
theorem State.beginReset_mapStep (s : State) (cause : ResetCause) : MapStep s (s.beginReset cause) := by
  cases k : s.layout.preserve with
  | false => exact .cleared (fun x => by simp [s.extent_beginReset, k]) rfl rfl
  | true =>
    refine .preserved (fun x => by simp [s.extent_beginReset, k]) (fun p => ?_) ?_ rfl rfl
    · simp [s.port_beginReset, LinkPort.atBridgeReset, k]
    · simp [State.beginReset, Layout.atBridgeReset, Layout.size, k]

theorem execResetNFallingEdge_mapStep (s : State) : ∃ t, execResetNFallingEdge s = .next t ∧ MapStep s t := by
  have low : Quiet s { s with resetNLow := true } := .of_fields
  refine ⟨_, rfl, ?_⟩
  split
  · exact low.then_step (State.beginReset_mapStep _ _)
  · exact .quiet low

theorem State.endReset_quiet (s : State) (straps : Straps) : Quiet s (s.endReset straps) := .of_fields

theorem execResetNRise_mapStep (straps : Straps) (s : State) : ∃ t, execResetNRise straps s = .next t ∧ MapStep s t := by
  have high : Quiet s { s with resetNLow := false } := .of_fields
  refine ⟨_, rfl, ?_⟩
  split
  · exact .quiet (high.trans (State.endReset_quiet _ straps))
  · exact .quiet high

theorem execBridgeResetEnd_mapStep (straps : Straps) (s : State) :
    ∃ t, execBridgeResetEnd straps s = .next t ∧ MapStep s t := by
  refine ⟨_, rfl, ?_⟩
  split
  · exact .quiet (s.endReset_quiet straps)
  · exact .refl s

theorem execBridgeReset_mapStep (path : MgmtPath) (s : State) : ∃ t, execBridgeReset path s = .next t ∧ MapStep s t := by
  refine ⟨_, rfl, s.request_mapStep path _ fun t => ?_⟩
  split
  · exact t.beginReset_mapStep _
  · exact .refl t

/-! ## Read requests -/

theorem State.report_mapStep (s : State) (data : List Byte) : MapStep s (s.report data).1 := .quiet .of_fields

theorem execReadExtent_mapStep (path : MgmtPath) (extent : Byte) (s : State) :
    ∃ t, execReadExtent path extent s = .next t ∧ MapStep s t := by
  refine ⟨_, rfl, s.request_mapStep path _ fun t => ?_⟩
  split
  · exact .refl t
  · exact t.report_mapStep _

theorem execReadPort_mapStep (path : MgmtPath) (port clear : Byte) (s : State) :
    ∃ t, execReadPort path port clear s = .next t ∧ MapStep s t := by
  refine ⟨_, rfl, s.request_mapStep path _ fun t => ?_⟩
  split
  · exact t.report_mapStep _
  · next p _ _ =>
    refine t.holderOnly_mapStep path ?_
    exact (t.setPort_quiet p (by rfl) (by exact id)).then_step (State.report_mapStep _ _)
  · exact .refl t

theorem execReadChannel_mapStep (path : MgmtPath) (channel : Byte) (s : State) :
    ∃ t, execReadChannel path channel s = .next t ∧ MapStep s t := by
  refine ⟨_, rfl, s.request_mapStep path _ fun t => ?_⟩
  split
  · exact .refl t
  · exact t.report_mapStep _

theorem execPeekCompletion_mapStep (path : MgmtPath) (s : State) :
    ∃ t, execPeekCompletion path s = .next t ∧ MapStep s t := by
  refine ⟨_, rfl, s.request_mapStep path _ fun t => ?_⟩
  split <;> exact .refl t

/-! ## Holder requests -/

/-- A submission enters behind the head change (R115). -/
theorem State.appendChange_quiet (s : State) (path : MgmtPath) (op : ChangeOp) : Quiet s (s.appendChange path op) :=
  (s.changeQueue_quiet (l := (s.appendChange path op).changeQueue) fun _ ch h => by
    simp [State.appendChange, h]).trans .of_fields

theorem execSubmit_mapStep (path : MgmtPath) (operands : SubmitOperands) (s : State) :
    ∃ t, execSubmit path operands s = .next t ∧ MapStep s t := by
  refine ⟨_, rfl, s.request_mapStep path _ fun t => t.holderOnly_mapStep path ?_⟩
  split
  · exact .refl t
  · split
    · exact .quiet (t.appendChange_quiet path _)
    · exact .refl t

/-- A queued change cancelled stood behind the active one (R138). -/
theorem State.cancelQueued_quiet (s : State) (ch : ChangeRecord) : Quiet s (s.cancelQueued ch) := by
  refine (s.changeQueue_quiet fun a head h => ?_).trans (State.postRecord_quiet _ _)
  obtain ⟨rest, queue⟩ := List.head?_eq_some_iff.mp h
  rw [if_pos (Option.isSome_iff_ne_none.mpr a), queue]
  rfl

theorem State.cancelWaiting_mapStep (s : State) (id : Nat) : MapStep s (s.cancelWaiting id).1 := by
  unfold State.cancelWaiting
  split
  · exact .refl s
  · split
    · exact .quiet (s.cancelQueued_quiet _)
    · exact .refl s

theorem execCancel_mapStep (path : MgmtPath) (id : BitVec 16) (s : State) :
    ∃ t, execCancel path id s = .next t ∧ MapStep s t := by
  refine ⟨_, rfl, s.request_mapStep path _ fun t => t.holderOnly_mapStep path ?_⟩
  split
  · next h a =>
    split
    · exact State.rollback_mapStep a _
    · exact t.cancelWaiting_mapStep _
  · exact t.cancelWaiting_mapStep _

theorem execPopCompletion_mapStep (path : MgmtPath) (s : State) :
    ∃ t, execPopCompletion path s = .next t ∧ MapStep s t := by
  refine ⟨_, rfl, s.request_mapStep path _ fun t => t.holderOnly_mapStep path ?_⟩
  split
  · exact .refl t
  · exact .quiet .of_fields

theorem execAbortRelocation_mapStep (path : MgmtPath) (extent : Byte) (s : State) :
    ∃ t, execAbortRelocation path extent s = .next t ∧ MapStep s t := by
  refine ⟨_, rfl, s.request_mapStep path _ fun t => ?_⟩
  split
  · exact .refl t
  · refine t.holderOnly_mapStep path ?_
    split
    · next r h =>
      split
      · split
        · exact .quiet (State.relocation_quiet h rfl)
        · exact .refl t
        · exact .refl t
      · exact .refl t
    · exact .refl t

theorem execClearErrors_mapStep (path : MgmtPath) (selector : Byte) (s : State) :
    ∃ t, execClearErrors path selector s = .next t ∧ MapStep s t := by
  refine ⟨_, rfl, s.request_mapStep path _ fun t => ?_⟩
  split
  · exact t.holderOnly_mapStep path (.quiet (t.setChannel_quiet 0 _))
  · exact t.holderOnly_mapStep path (.quiet (t.setChannel_quiet 1 _))
  · exact t.holderOnly_mapStep path (.quiet ((t.setChannel_quiet 0 _).trans (State.setChannel_quiet _ 1 _)))
  · exact .refl t

theorem execClearInterrupted_mapStep (path : MgmtPath) (s : State) :
    ∃ t, execClearInterrupted path s = .next t ∧ MapStep s t :=
  ⟨_, rfl, s.request_mapStep path _ fun t => t.holderOnly_mapStep path (.quiet .of_fields)⟩

/-- The layout changes quietly while its pool stays as it is. -/
theorem State.layout_quiet (s : State) {l : Layout} (h : l.pool = s.layout.pool) : Quiet s { s with layout := l } where
  extents := rfl
  windows _ := rfl
  size := by simp only [Layout.size, h]
  relocation := rfl
  handover := rfl
  head _ _ h := h
  confirm h a c := ⟨h, a, c, id⟩

theorem execSetLayout_mapStep (path : MgmtPath) (index : Byte) (limit : BitVec 16) (mode : Byte) (s : State) :
    ∃ t, execSetLayout path index limit mode s = .next t ∧ MapStep s t := by
  refine ⟨_, rfl, s.request_mapStep path _ fun t => t.holderOnly_mapStep path ?_⟩
  split
  · exact .refl t
  · split
    · exact .refl t
    · split
      · exact .quiet (t.layout_quiet rfl)
      · exact .refl t

theorem execClearLayout_mapStep (path : MgmtPath) (s : State) : ∃ t, execClearLayout path s = .next t ∧ MapStep s t := by
  refine ⟨_, rfl, s.request_mapStep path _ fun t => t.holderOnly_mapStep path ?_⟩
  split
  · exact .refl t
  · exact .quiet (t.layout_quiet rfl)

/-- A pool that comes ONLINE was of size 0 (R24). -/
theorem execPoolCommit_mapStep (path : MgmtPath) (s : State) : ∃ t, execPoolCommit path s = .next t ∧ MapStep s t := by
  refine ⟨_, rfl, s.request_mapStep path _ fun t => t.holderOnly_mapStep path ?_⟩
  split
  · exact .refl t
  · next offline =>
    split
    · exact .refl t
    · have size : t.layout.size = 0 := by
        cases e : t.layout.pool <;> simp_all [Layout.isOnline, Layout.size]
      exact .pool (.inl (size ▸ Nat.zero_le _))

/-- A pool is torn down only while every extent is FREE (R31). -/
theorem execPoolTeardown_mapStep (path : MgmtPath) (s : State) :
    ∃ t, execPoolTeardown path s = .next t ∧ MapStep s t := by
  refine ⟨_, rfl, s.request_mapStep path _ fun t => t.holderOnly_mapStep path ?_⟩
  split
  · split
    · exact .refl t
    · next inUse =>
      refine .pool (.inr fun x => Extent.eq_free_of_isFree ?_)
      simpa using (List.any_eq_false.mp (Bool.eq_false_iff.mpr inUse)) x (mem_allExtents x)
  · exact .refl t

theorem execChannelOnline_mapStep (path : MgmtPath) (channel : Byte) (s : State) :
    ∃ t, execChannelOnline path channel s = .next t ∧ MapStep s t := by
  refine ⟨_, rfl, s.request_mapStep path _ fun t => ?_⟩
  split
  · exact .refl t
  · next c _ =>
    refine t.holderOnly_mapStep path ?_
    split
    · exact .quiet (t.setChannel_quiet c _)
    · exact .quiet (t.setChannel_quiet c _)
    · exact .refl t
    · exact .refl t
    · exact .refl t

theorem execChannelOffline_mapStep (path : MgmtPath) (channel : Byte) (s : State) :
    ∃ t, execChannelOffline path channel s = .next t ∧ MapStep s t := by
  refine ⟨_, rfl, s.request_mapStep path _ fun t => ?_⟩
  split
  · exact .refl t
  · next c _ =>
    refine t.holderOnly_mapStep path ?_
    split
    · exact .refl t
    · split
      · exact .refl t
      · split
        · exact .refl t
        · exact .quiet (t.takeOffline_quiet c)

theorem State.clearPort_quiet (s : State) (p : PortId) : Quiet s (s.clearPort p) := s.setPort_quiet p rfl id

theorem execPortEnable_mapStep (path : MgmtPath) (port : Byte) (s : State) :
    ∃ t, execPortEnable path port s = .next t ∧ MapStep s t := by
  refine ⟨_, rfl, s.request_mapStep path _ fun t => ?_⟩
  split
  · exact .refl t
  · next p _ =>
    refine t.holderOnly_mapStep path ?_
    split
    · next h => exact .quiet (t.setPort_closed_quiet p rfl (by simp [h]))
    · exact .refl t

theorem execPortDisable_mapStep (path : MgmtPath) (port : Byte) (s : State) :
    ∃ t, execPortDisable path port s = .next t ∧ MapStep s t := by
  refine ⟨_, rfl, s.request_mapStep path _ fun t => ?_⟩
  split
  · exact .refl t
  · next p _ =>
    refine t.holderOnly_mapStep path ?_
    dsimp only
    split
    · exact .quiet (t.clearPort_quiet p)
    · exact t.resetPort_mapStep p .disabled true

theorem execPortReset_mapStep (path : MgmtPath) (port : Byte) (s : State) :
    ∃ t, execPortReset path port s = .next t ∧ MapStep s t := by
  refine ⟨_, rfl, s.request_mapStep path _ fun t => ?_⟩
  split
  · exact .refl t
  · next p _ =>
    refine t.holderOnly_mapStep path ?_
    dsimp only
    split
    · exact .quiet (t.clearPort_quiet p)
    · exact t.resetPort_mapStep p .down true

theorem execSetOffer_mapStep (path : MgmtPath) (port readOffer writeOffer : Byte) (s : State) :
    ∃ t, execSetOffer path port readOffer writeOffer s = .next t ∧ MapStep s t := by
  refine ⟨_, rfl, s.request_mapStep path _ fun t => ?_⟩
  split
  · exact .refl t
  · next p _ =>
    refine t.holderOnly_mapStep path ?_
    split
    · split
      · exact .refl t
      · exact .quiet (t.setPort_quiet p rfl id)
    · exact .refl t

theorem execSetTimers_mapStep (path : MgmtPath) (confirm drain : BitVec 16) (bringUp : Byte) (writeData : BitVec 16)
    (s : State) : ∃ t, execSetTimers path confirm drain bringUp writeData s = .next t ∧ MapStep s t := by
  refine ⟨_, rfl, s.request_mapStep path _ fun t => t.holderOnly_mapStep path ?_⟩
  split
  · exact .refl t
  · exact .quiet .of_fields

theorem execSetPreserve_mapStep (path : MgmtPath) (value : Byte) (s : State) :
    ∃ t, execSetPreserve path value s = .next t ∧ MapStep s t := by
  refine ⟨_, rfl, s.request_mapStep path _ fun t => ?_⟩
  split
  · exact .refl t
  · exact t.holderOnly_mapStep path (.quiet (t.layout_quiet rfl))

/-! ## The manager role -/

theorem State.claimFor_mapStep (s : State) (path : MgmtPath) : MapStep s (s.claimFor path).1 := by
  unfold State.claimFor
  split
  · exact .quiet .of_fields
  · split <;> exact .refl s

theorem execClaim_mapStep (path : MgmtPath) (s : State) : ∃ t, execClaim path s = .next t ∧ MapStep s t := by
  refine ⟨_, rfl, s.request_mapStep path _ fun t => ?_⟩
  split
  · exact t.claimFor_mapStep _
  · split
    · exact .refl t
    · split
      · exact .refl t
      · exact t.claimFor_mapStep _

theorem execBreakRole_mapStep (path : MgmtPath) (s : State) : ∃ t, execBreakRole path s = .next t ∧ MapStep s t := by
  refine ⟨_, rfl, s.request_mapStep path _ fun t => ?_⟩
  split
  · exact .refl t
  · split
    · next p _ =>
      have freed : Quiet t { t with holder := .i2c } := .of_fields
      exact .quiet (freed.trans (State.offerNotice_quiet _ p _))
    · exact .quiet .of_fields
    · exact .quiet .of_fields

theorem execSetEligible_mapStep (path : MgmtPath) (value : Byte) (s : State) :
    ∃ t, execSetEligible path value s = .next t ∧ MapStep s t := by
  refine ⟨_, rfl, s.request_mapStep path _ fun t => ?_⟩
  split
  · exact .refl t
  · split
    · exact .refl t
    · split
      · exact .refl t
      · exact .quiet .of_fields

theorem execMgmtBadRequest_mapStep (frame : MgmtFrame) (s : State) :
    ∃ t, execMgmtBadRequest frame s = .next t ∧ MapStep s t := by
  refine ⟨_, rfl, ?_⟩
  split
  · exact .refl s
  · exact s.request_mapStep _ _ fun t => .refl t

/-! ## Every command -/

theorem MapStep.of_exists {s t : State} {o : Host.Outcome State Fault Refusal} (h : ∃ u, o = .next u ∧ MapStep s u)
    (k : o = .next t) : MapStep s t := by
  obtain ⟨u, e, m⟩ := h
  obtain rfl := Host.Outcome.next.inj (e.symm.trans k)
  exact m

/-- Every command moves the map by its steps alone. -/
theorem exec_mapStep {c : Instr} {s t : State} (h : exec c s = .next t) : MapStep s t := by
  cases c with
  | powerOn straps => exact .of_exists ⟨_, rfl, s.atPowerOn_mapStep _ straps⟩ h
  | pwrgoodDeasserted => exact .of_exists ⟨_, rfl, s.atPowerOn_mapStep .off s.straps⟩ h
  | resetNFallingEdge => exact .of_exists (execResetNFallingEdge_mapStep s) h
  | resetNRise straps => exact .of_exists (execResetNRise_mapStep straps s) h
  | bridgeReset path => exact .of_exists (execBridgeReset_mapStep path s) h
  | bridgeResetEnd straps => exact .of_exists (execBridgeResetEnd_mapStep straps s) h
  | partnerDetected p => exact .of_exists (execPartnerDetected_mapStep p s) h
  | trainingComplete p => exact .of_exists (execTrainingComplete_mapStep p s) h
  | trainingFailed p => exact .of_exists ⟨_, rfl, .refl s⟩ h
  | linkLost p => exact .of_exists (execLinkLost_mapStep p s) h
  | bringUpTimerExpiry p => exact .of_exists (execBringUpTimerExpiry_mapStep p s) h
  | packetCrcDrop p bytes => exact .of_exists (execPacketCrcDrop_mapStep p bytes s) h
  | undefinedPacket p kind pkt => exact .of_exists (execUndefinedPacket_mapStep p kind pkt s) h
  | read p pkt => exact .quiet (State.takeRequestPacket_quiet h)
  | write p pkt => exact .quiet (State.takeRequestPacket_quiet h)
  | wdata p pkt => exact .of_exists (execWdata_mapStep p pkt s) h
  | writeDataTimerExpiry p tag =>
    exact .of_exists ⟨_, rfl, s.whenRunning_mapStep (.quiet (s.applyFates_quiet p _))⟩ h
  | noticeAck p pkt => exact .of_exists (execNoticeAck_mapStep p pkt s) h
  | windowAccept p value => exact .of_exists ⟨_, rfl, s.onPacket_mapStep p (.quiet (s.writeWindowAccept_quiet p value))⟩ h
  | portOpen p value => exact .of_exists ⟨_, rfl, s.onPacket_mapStep p (.quiet (s.writePortOpen_quiet p value))⟩ h
  | portClose p value => exact .of_exists ⟨_, rfl, s.onPacket_mapStep p (s.writePortClose_mapStep p)⟩ h
  | configWrite p access => exact .of_exists ⟨_, rfl, s.onPacket_mapStep p (s.configAccess_mapStep p access)⟩ h
  | closeComplete p => exact .of_exists ⟨_, rfl, s.whenRunning_mapStep (.quiet (s.completeClose_quiet p))⟩ h
  | admission c => exact .of_exists (execAdmission_mapStep c s) h
  | copyPairAdmission c => exact .of_exists (execCopyPairAdmission_mapStep c s) h
  | readComplete c p tag media => exact .of_exists (execReadComplete_mapStep c p tag media s) h
  | writeComplete c p tag part media => exact .of_exists (execWriteComplete_mapStep c p tag part media s) h
  | copyReadComplete c pair media => exact .of_exists (execCopyReadComplete_mapStep c pair media s) h
  | copyWriteComplete c pair => exact .of_exists (execCopyWriteComplete_mapStep c pair s) h
  | detectionEnd c slot0 slot1 slot2 slot3 => exact .of_exists (execDetectionEnd_mapStep c slot0 slot1 slot2 slot3 s) h
  | fillEnd c => exact .of_exists (execFillEnd_mapStep c s) h
  | channelFault c => exact .of_exists (execChannelFault_mapStep c s) h
  | confirmTimerExpiry => exact .of_exists (execConfirmTimerExpiry_mapStep s) h
  | drainTimerExpiry => exact .of_exists (execDrainTimerExpiry_mapStep s) h
  | handoverCommit => exact .of_exists (execHandoverCommit_mapStep s) h
  | create => exact .of_exists (execCreate_mapStep s) h
  | retire => exact .of_exists (execRetire_mapStep s) h
  | map => exact .of_exists (execMap_mapStep s) h
  | setShare => exact .of_exists (execSetShare_mapStep s) h
  | setWindow => exact .of_exists (execSetWindow_mapStep s) h
  | setRights => exact .of_exists (execSetRights_mapStep s) h
  | unmap => exact .of_exists (execUnmap_mapStep s) h
  | transfer => exact .of_exists (execTransfer_mapStep s) h
  | relocate => exact .of_exists (execRelocate_mapStep s) h
  | pendingNoticeReoffer => exact .of_exists (execPendingNoticeReoffer_mapStep s) h
  | relocationCommit => exact .of_exists (execRelocationCommit_mapStep s) h
  | abandonEnd => exact .of_exists (execAbandonEnd_mapStep s) h
  | endRecordPost => exact .of_exists (execEndRecordPost_mapStep s) h
  | readStatus path => exact .of_exists ⟨_, rfl, s.request_mapStep path _ fun t => t.report_mapStep _⟩ h
  | readExtent path extent => exact .of_exists (execReadExtent_mapStep path extent s) h
  | readLayout path => exact .of_exists ⟨_, rfl, s.request_mapStep path _ fun t => t.report_mapStep _⟩ h
  | readPort path port clear => exact .of_exists (execReadPort_mapStep path port clear s) h
  | readChannel path channel => exact .of_exists (execReadChannel_mapStep path channel s) h
  | readErrors path => exact .of_exists ⟨_, rfl, s.request_mapStep path _ fun t => t.report_mapStep _⟩ h
  | peekCompletion path => exact .of_exists (execPeekCompletion_mapStep path s) h
  | submit path operands => exact .of_exists (execSubmit_mapStep path operands s) h
  | cancel path id => exact .of_exists (execCancel_mapStep path id s) h
  | popCompletion path => exact .of_exists (execPopCompletion_mapStep path s) h
  | abortRelocation path extent => exact .of_exists (execAbortRelocation_mapStep path extent s) h
  | clearErrors path selector => exact .of_exists (execClearErrors_mapStep path selector s) h
  | clearInterrupted path => exact .of_exists (execClearInterrupted_mapStep path s) h
  | setLayout path index limit mode => exact .of_exists (execSetLayout_mapStep path index limit mode s) h
  | clearLayout path => exact .of_exists (execClearLayout_mapStep path s) h
  | poolCommit path => exact .of_exists (execPoolCommit_mapStep path s) h
  | poolTeardown path => exact .of_exists (execPoolTeardown_mapStep path s) h
  | channelOnline path channel => exact .of_exists (execChannelOnline_mapStep path channel s) h
  | channelOffline path channel => exact .of_exists (execChannelOffline_mapStep path channel s) h
  | portEnable path port => exact .of_exists (execPortEnable_mapStep path port s) h
  | portDisable path port => exact .of_exists (execPortDisable_mapStep path port s) h
  | portReset path port => exact .of_exists (execPortReset_mapStep path port s) h
  | setOffer path port readOffer writeOffer => exact .of_exists (execSetOffer_mapStep path port readOffer writeOffer s) h
  | setTimers path confirm drain bringUp writeData =>
    exact .of_exists (execSetTimers_mapStep path confirm drain bringUp writeData s) h
  | setPreserve path value => exact .of_exists (execSetPreserve_mapStep path value s) h
  | claim path => exact .of_exists (execClaim_mapStep path s) h
  | release path =>
    exact .of_exists ⟨_, rfl, s.request_mapStep path _ fun t => t.holderOnly_mapStep path (.quiet .of_fields)⟩ h
  | breakRole path => exact .of_exists (execBreakRole_mapStep path s) h
  | setEligible path value => exact .of_exists (execSetEligible_mapStep path value s) h
  | mgmtBadRequest frame => exact .of_exists (execMgmtBadRequest_mapStep frame s) h

/-- A step moves the map by its steps alone: taking the command off the queue is quiet. -/
theorem step_mapStep {s t : State} (h : step s = .next t) : MapStep s t := by
  unfold step at h
  split at h
  · cases h; exact .refl s
  · next rest _ =>
    have taken : Quiet s { s with pending := rest } := .of_fields
    exact taken.then_step (exec_mapStep h)

/-! ## The statements -/

/-- Settles O57: both laws are kept by each step of the map. -/
theorem stepKeepsShareAndWindowLaws : Obligations.StepKeepsShareAndWindowLaws := fun _ _ h =>
  ⟨(step_mapStep h).keeps_shareLaw, (step_mapStep h).keeps_windowLaw⟩

/-- Settles O59: the law is kept by each step of the map. -/
theorem stepKeepsExtentLaw : Obligations.StepKeepsExtentLaw := fun _ _ l h => (step_mapStep h).keeps_extentLaw l

/-- Settles O60: the law is kept by each step of the map. -/
theorem stepKeepsPlacementLaw : Obligations.StepKeepsPlacementLaw := fun _ _ l h => (step_mapStep h).keeps_placementLaw l

end Sys2Proof.Machine
end

section
/-! SUPPORT. The lookup of a node address, the laws in the state after reset, and the values of a bridge reset. -/

namespace Sys2Proof.Machine

/-! ## The lookup (R11 to R15) -/

theorem State.covers_iff (s : State) (p : PortId) (seg : Nat) (x : ExtentId) :
    s.covers p seg x = true ↔ ∃ b m, (s.extent x).body? = some b ∧ b.mapping[p] = some m ∧
      m.windowBase ≤ seg ∧ seg < m.windowBase + b.length := by
  unfold State.covers State.mappingOf State.lengthOf
  cases (s.extent x).body? with
  | none => simp
  | some b => cases hm : b.mapping[p] <;> simp [hm, -Fin.getElem_fin]

/-- An address at or above the window (R11). -/
theorem State.lookup_outOfWindow {s : State} {p : PortId} {a : Nat} (kind : ReqKind)
    (h : (s.port p).windowSize ≤ a / 268435456) : s.lookup p kind a = .outOfWindow := by
  simp [State.lookup, h]

/-- An address in the window that no mapping covers (R12). -/
theorem State.lookup_unmapped {s : State} {p : PortId} {a : Nat} (kind : ReqKind)
    (inside : a / 268435456 < (s.port p).windowSize) (h : ∀ x, s.covers p (a / 268435456) x = false) :
    s.lookup p kind a = .unmapped := by
  have e : allExtents.find? (s.covers p (a / 268435456)) = none :=
    List.find?_eq_none.mpr fun x _ => by simp [h x]
  simp [State.lookup, Nat.not_le.mpr inside, e]

/-- An address that one mapping alone covers: its right decides, then its place in the extent (R13, R14). -/
theorem State.lookup_covered {s : State} {p : PortId} {a : Nat} (kind : ReqKind)
    (inside : a / 268435456 < (s.port p).windowSize) {x : ExtentId} {b : ExtentBody} {m : Mapping}
    (hb : (s.extent x).body? = some b) (hm : b.mapping[p] = some m)
    (h : ∀ y, s.covers p (a / 268435456) y = true ↔ y = x) :
    s.lookup p kind a =
      if kind = .write ∧ m.rights = .read then .noRight
      else .found x b.generation ((a / 268435456 - m.windowBase) * 268435456 + a % 268435456)
        (b.poolBase * 268435456 + ((a / 268435456 - m.windowBase) * 268435456 + a % 268435456)) := by
  have e : allExtents.find? (s.covers p (a / 268435456)) = some x := by
    cases k : allExtents.find? (s.covers p (a / 268435456)) with
    | none => exact absurd ((h x).mpr rfl) (List.find?_eq_none.mp k x (mem_allExtents x))
    | some y => rw [(h y).mp (List.find?_some k)]
  have mapped : s.mappingOf x p = some m := by simp [State.mappingOf, hb, hm]
  simp only [State.lookup, Nat.not_le.mpr inside, if_false, e, hb, mapped]

/-- Settles O14: the three cases of the search for a covering mapping. -/
theorem lookupOutcomes : Obligations.LookupOutcomes := by
  intro s p kind a
  refine ⟨State.lookup_outOfWindow kind, fun inside none => ?_, fun x b m inside hb hm low high other => ?_⟩
  · refine State.lookup_unmapped kind inside fun x => Bool.eq_false_iff.mpr fun k => ?_
    obtain ⟨b, m, hb, hm, covers⟩ := (s.covers_iff p _ x).mp k
    exact none x b m hb hm covers
  · refine State.lookup_covered kind inside hb hm fun y => ⟨fun k => ?_, ?_⟩
    · obtain ⟨b', m', hb', hm', covers⟩ := (s.covers_iff p _ y).mp k
      exact Classical.byContradiction fun ne => other y b' m' ne hb' hm' covers
    · rintro rfl
      exact (s.covers_iff p _ y).mpr ⟨b, m, hb, hm, low, high⟩

/-! ## The state after reset -/

theorem State.reset_extent (x : ExtentId) : State.reset.extent x = .free := by simp [State.extent, State.reset]

theorem State.reset_port (p : PortId) : State.reset.port p = LinkPort.atPowerOn := by simp [State.port, State.reset]

theorem State.reset_tracker (p : PortId) : State.reset.tracker p = [] := by simp [State.tracker, State.reset]

theorem State.reset_noticeQueue (p : PortId) : State.reset.noticeQueue p = NoticeQueue.empty := by
  simp [State.noticeQueue, State.reset]

theorem State.reset_channel (c : ChannelId) : State.reset.channel c = Channel.atPowerOn := by
  have h : c = 0 ∨ c = 1 := by revert c; decide
  rcases h with rfl | rfl <;> rfl

theorem State.reset_body? (x : ExtentId) (b : ExtentBody) : (State.reset.extent x).body? ≠ some b :=
  State.body?_of_free (State.reset_extent x) b

theorem State.reset_active (h : Handover) : State.reset.active ≠ some h := by simp [State.reset]

theorem State.reset_copyEngine (r : Relocation) : State.reset.copyEngine ≠ .running r := by simp [State.reset]

theorem State.reset_creditLaw : State.reset.creditLaw := fun p => by
  rw [State.reset_port, State.reset_tracker]
  simp [LinkPort.creditLaw, LinkPort.atPowerOn, trackerLaw, countedOf, retiringOf]

theorem State.reset_shareLaw : State.reset.shareLaw :=
  ⟨fun x b h => absurd h (State.reset_body? x b), fun h a => absurd a (State.reset_active h)⟩

theorem State.reset_windowLaw : State.reset.windowLaw :=
  ⟨fun x b h => absurd h (State.reset_body? x b), fun h a => absurd a (State.reset_active h)⟩

theorem State.reset_placeLaw : State.reset.placeLaw := fun c => by
  rw [State.reset_channel]
  simp [Channel.placeLaw, Channel.reservedUsed, Channel.sharedUsed, Channel.atPowerOn]

theorem State.reset_extentLaw : State.reset.extentLaw :=
  ⟨State.changingLaw_of_idle rfl fun x _ _ => by simp [State.reset_extent x],
    State.relocatingLaw_of_stopped rfl fun x _ => by simp [State.reset_extent x]⟩

theorem State.reset_segmentLaw : State.reset.segmentLaw :=
  ⟨fun x _ a _ _ h => absurd h (State.reset_body? x a), fun x b h => absurd h (State.reset_body? x b),
    fun r h => absurd h (State.reset_copyEngine r)⟩

/-- Settles O52, law by law: every queue, tracker and work queue is empty, every extent FREE, nothing active. -/
theorem lawsHoldAtReset : Obligations.LawsHoldAtReset := by
  refine ⟨State.reset_memory_wf, ?role, ?queue, State.reset_creditLaw, ?tag, State.reset_shareLaw, State.reset_windowLaw,
    ?sequence, State.reset_placeLaw, fun r h => absurd h (State.reset_copyEngine r), State.reset_extentLaw,
    State.reset_extentLaw, State.reset_segmentLaw⟩
  case role => intro p h; cases h
  case queue => exact ⟨by decide, by decide, fun p => by simp [State.reset_noticeQueue, NoticeQueue.empty]⟩
  case tag => intro p; simp [State.reset_tracker, tagsDistinct]
  case sequence => intro p; simp [State.reset_noticeQueue, NoticeQueue.empty, NoticeQueue.ordered]

/-! ## A bridge reset (R22, R39, R112, R113, R189) -/

theorem State.channel_beginReset (s : State) (cause : ResetCause) (c : ChannelId) :
    ∃ n, (s.beginReset cause).channel c = (s.channel c).atBridgeReset s.layout.preserve n := by
  have h : c = 0 ∨ c = 1 := by revert c; decide
  rcases h with rfl | rfl <;> exact ⟨_, rfl⟩

theorem Channel.capacity_goOffline (x : Channel) : x.goOffline.capacity = 0 := by
  simp [Channel.capacity, Channel.goOffline]

/-- A channel cleared by a reset without preserve (Table 36). -/
theorem Channel.atBridgeReset_cleared (x : Channel) (n : Nat) :
    (x.atBridgeReset false n).state = .offline ∧ (x.atBridgeReset false n).capacity = 0 ∧
      (x.atBridgeReset false n).fillKind = .zero :=
  ⟨rfl, Channel.capacity_goOffline x, rfl⟩

/-- An ONLINE channel retained by a reset: its modules, and every line that no queued operation names (R113). -/
theorem Channel.atBridgeReset_online {x : Channel} (h : x.state = .online) (n : Nat) :
    (x.atBridgeReset true n).state = .online ∧ (x.atBridgeReset true n).slots = x.slots ∧
      (x.memory.wf = true → ∀ line, (∀ o ∈ x.queue, o.line ≠ line) →
        (x.atBridgeReset true n).memory.read line = x.memory.read line) := by
  simp only [Channel.atBridgeReset, h, if_true, true_and]
  exact fun w line k => Memory.read_cut w n [] x.queue line k

/-- An OFFLINE or FAULTED channel stays so (R112). -/
theorem Channel.atBridgeReset_unused {x : Channel} (h : x.state = .offline ∨ x.state = .faulted) (n : Nat) :
    (x.atBridgeReset true n).state = x.state ∧ (x.atBridgeReset true n).slots = x.slots := by
  rcases h with h | h <;> simp [Channel.atBridgeReset, h]

/-- A channel that was being brought up goes OFFLINE. -/
theorem Channel.atBridgeReset_initialising {x : Channel} (h : x.state = .filling ∨ ∃ ff req, x.state = .detecting ff req)
    (n : Nat) : (x.atBridgeReset true n).state = .offline ∧ (x.atBridgeReset true n).capacity = 0 := by
  rcases h with h | ⟨ff, req, h⟩ <;> simp only [Channel.atBridgeReset, h, if_true] <;>
    exact ⟨rfl, Channel.capacity_goOffline _⟩

/-- A RELOCATING record is resolved by the phase of its relocation: at its target in FINISHING, else as it was
(Table 10). -/
theorem Extent.atPreserve_relocating (b : ExtentBody) (r : Relocation) :
    (Extent.relocating b).atPreserve (.running r) =
      if r.phase = .finishing then .active { b with poolBase := r.targetBase, generation := b.generation + 1 }
      else .active b := by
  cases h : r.phase <;> simp [Extent.atPreserve, Relocation.resolveCut, ExtentBody.relocated, h]

/-- Both commands begin the same reset; what they mark before it plays no part in what it keeps. -/
theorem exec_beginReset {s : State} (running : s.power = .running) {c : Instr}
    (h : c = .resetNFallingEdge ∨ (c = .bridgeReset .i2c ∧ s.receives .i2c)) :
    ∃ low i2c cause, exec c s = .next (({ s with resetNLow := low, i2c := i2c } : State).beginReset cause) := by
  rcases h with rfl | ⟨rfl, received⟩
  · refine ⟨true, s.i2c, .resetPin, ?_⟩
    show execResetNFallingEdge s = _
    simp only [execResetNFallingEdge, running, if_true]
  · refine ⟨s.resetNLow, .inProgress Req.bridgeReset, .resetRequest, ?_⟩
    show execBridgeReset .i2c s = _
    simp only [execBridgeReset, State.request_taken received]
    rfl

section
variable {s : State} (cause : ResetCause)

theorem State.beginReset_layout_cleared (h : s.layout.preserve = false) :
    (s.beginReset cause).layout = { pool := .offline, ranges := [], preserve := false } := by
  simp [State.beginReset, Layout.atBridgeReset, h]

theorem State.beginReset_layout_kept (h : s.layout.preserve = true) :
    (s.beginReset cause).layout = { s.layout with preserve := false } := by
  simp [State.beginReset, Layout.atBridgeReset, h]

theorem State.beginReset_limits_cleared (h : s.layout.preserve = false) :
    (s.beginReset cause).limits = Limits.default ∧ (s.beginReset cause).interrupted = none := by
  simp [State.beginReset, h]

theorem State.beginReset_limits_kept (h : s.layout.preserve = true) : (s.beginReset cause).limits = s.limits := by
  simp [State.beginReset, h]

theorem State.beginReset_port_cleared (h : s.layout.preserve = false) (p : PortId) :
    ((s.beginReset cause).port p).windowSize = 0 ∧ ((s.beginReset cause).port p).readOffer = 24 ∧
      ((s.beginReset cause).port p).writeOffer = 16 := by
  rw [s.port_beginReset, h]
  exact ⟨rfl, rfl, rfl⟩

theorem State.beginReset_port_kept (h : s.layout.preserve = true) (p : PortId) :
    ((s.beginReset cause).port p).windowSize = (s.port p).windowSize ∧
      ((s.beginReset cause).port p).readOffer = (s.port p).readOffer ∧
      ((s.beginReset cause).port p).writeOffer = (s.port p).writeOffer := by
  rw [s.port_beginReset, h]
  exact ⟨rfl, rfl, rfl⟩

theorem State.beginReset_extent_kept (h : s.layout.preserve = true) (x : ExtentId) :
    (s.beginReset cause).extent x = (s.extent x).atPreserve s.copyEngine := by rw [s.extent_beginReset, if_pos h]

theorem State.beginReset_extent_cleared (h : s.layout.preserve = false) (x : ExtentId) :
    (s.beginReset cause).extent x = .free := by rw [s.extent_beginReset, if_neg (by simp [h])]

end

/-- Settles O7, block by block: each block's own values at a reset, without preserve and with it. -/
theorem bridgeResetKeepsOrClears : Obligations.BridgeResetKeepsOrClears := by
  intro s running c hc
  obtain ⟨low, i2c, cause, e⟩ := exec_beginReset running hc
  let u : State := { s with resetNLow := low, i2c := i2c }
  have channel : ∀ ch : ChannelId, ∃ n, (u.beginReset cause).channel ch = (s.channel ch).atBridgeReset s.layout.preserve n :=
    fun ch => u.channel_beginReset cause ch
  refine ⟨u.beginReset cause, e, fun preserve => ?cleared, fun preserve => ?kept⟩
  case cleared =>
    have layout := State.beginReset_layout_cleared (s := u) cause preserve
    obtain ⟨limits, interrupted⟩ := State.beginReset_limits_cleared (s := u) cause preserve
    refine ⟨State.beginReset_extent_cleared (s := u) cause preserve, by rw [layout], by rw [layout], limits, interrupted,
      State.beginReset_port_cleared (s := u) cause preserve, fun ch => ?_⟩
    obtain ⟨n, same⟩ := channel ch
    rw [same, preserve]
    exact Channel.atBridgeReset_cleared _ n
  case kept =>
    have layout := State.beginReset_layout_kept (s := u) cause preserve
    refine ⟨by rw [layout], by rw [layout], State.beginReset_limits_kept (s := u) cause preserve,
      State.beginReset_port_kept (s := u) cause preserve, fun x => ?extent, fun ch => ?channel⟩
    case extent =>
      have record : (u.beginReset cause).extent x = (s.extent x).atPreserve s.copyEngine :=
        State.beginReset_extent_kept (s := u) cause preserve x
      rw [record]
      refine ⟨fun h => by rw [h]; rfl, fun b h => by rw [h]; rfl, fun b id h => by rw [h]; rfl, fun b r h running => ?_⟩
      rw [h, running]
      exact Extent.atPreserve_relocating b r
    case channel =>
      obtain ⟨n, same⟩ := channel ch
      rw [same, preserve]
      refine ⟨fun h => ?_, fun h => ?_, fun h => ?_, fun h => ?_, fun ff req h => ?_⟩
      · obtain ⟨state, slots, lines⟩ := Channel.atBridgeReset_online h n
        exact ⟨state, slots, fun law => lines (law ch)⟩
      · rw [← h]; exact Channel.atBridgeReset_unused (.inl h) n
      · rw [← h]; exact Channel.atBridgeReset_unused (.inr h) n
      · exact Channel.atBridgeReset_initialising (.inl h) n
      · exact Channel.atBridgeReset_initialising (.inr ⟨ff, req, h⟩) n

end Sys2Proof.Machine
end

section
/-! SUPPORT. Where an address of the pool lies and what a request resolves to (R32, R33, R70), and the one way in which a
command can stop (log 19). -/

namespace Sys2Proof.Machine

/-! ## The place of an address (R32, R33) -/

/-- An address is decoded in the range that holds its segment. -/
theorem Layout.decode_holds {l : Layout} (rise : limitsRise l.ranges l.ranges.length) {i : Nat} {r : LayoutRange}
    {address : Nat} (h : holdsSegment l.ranges i r (address / 268435456)) :
    l.decode address = decodeInRange r (address - rangeLower l.ranges i * 268435456) := by
  simp only [Layout.decode, Config.segmentBytes, rangeOfSegment_holds rise h]

section
variable {r : LayoutRange} {start : Nat} (offset : Nat)

theorem decodeInRange_ch0 (mode : r.mode = .ch0) (h : r.ch0Start = some start) :
    decodeInRange r offset = some { channel := 0, line := start * 4194304 + offset / 64 } := by
  simp [decodeInRange, mode, h]

theorem decodeInRange_ch1 (mode : r.mode = .ch1) (h : r.ch1Start = some start) :
    decodeInRange r offset = some { channel := 1, line := start * 4194304 + offset / 64 } := by
  simp [decodeInRange, mode, h]

/-- The even blocks of a BOTH range lie on CH0. -/
theorem decodeInRange_both_ch0 (mode : r.mode = .both) (block : offset / 512 % 2 = 0) (h : r.ch0Start = some start) :
    decodeInRange r offset =
      some { channel := 0, line := start * 4194304 + offset / 512 / 2 * 8 + offset % 512 / 64 } := by
  simp [decodeInRange, mode, block, LayoutRange.start, h]

/-- The odd blocks of a BOTH range lie on CH1. -/
theorem decodeInRange_both_ch1 (mode : r.mode = .both) (block : offset / 512 % 2 = 1) (h : r.ch1Start = some start) :
    decodeInRange r offset =
      some { channel := 1, line := start * 4194304 + offset / 512 / 2 * 8 + offset % 512 / 64 } := by
  simp [decodeInRange, mode, block, LayoutRange.start, h]

end

/-! ## Target resolution (R70) -/

section
variable {s : State} {x : ExtentId} {b : ExtentBody} {r : Relocation} (kind : ReqKind) (offset pa : Nat)

theorem State.resolve_settled (h : ∀ b, s.extent x ≠ .relocating b) :
    s.resolve kind x offset pa = (s.layout.decode pa).map .source := by
  unfold State.resolve
  split
  · next b _ hb _ => exact absurd hb (h b)
  · rfl

theorem State.resolve_stopped (h : ∀ r, s.copyEngine ≠ .running r) :
    s.resolve kind x offset pa = (s.layout.decode pa).map .source := by
  unfold State.resolve
  split
  · next r _ hr => exact absurd hr (h r)
  · rfl

variable (hx : s.extent x = .relocating b) (hr : s.copyEngine = .running r)
include hx hr

/-- Before its copy, a line is accessed at the source alone, and a READ of any line of the relocation too. -/
theorem State.resolve_copying_source (phase : r.phase = .copying) (h : ¬ (kind = .write ∧ offset / 64 < r.cursor)) :
    s.resolve kind x offset pa = (s.layout.decode pa).map .source := by
  simp only [State.resolve, hx, hr, phase, Config.lineBytes, if_neg h]

/-- A WRITE of a line already copied goes to both places. -/
theorem State.resolve_copying_dual (phase : r.phase = .copying) (below : offset / 64 < r.cursor) :
    s.resolve .write x offset pa =
      (s.layout.decode pa).bind fun src => (s.layout.decode (r.targetBase * 268435456 + offset)).map (.dual src) := by
  simp only [State.resolve, hx, hr, phase, Config.lineBytes, Config.segmentBytes, below, and_self, if_true]
  cases s.layout.decode pa <;> cases s.layout.decode (r.targetBase * 268435456 + offset) <;> rfl

theorem State.resolve_finishing (phase : r.phase = .finishing) :
    s.resolve kind x offset pa = (s.layout.decode (r.targetBase * 268435456 + offset)).map .dest := by
  simp only [State.resolve, hx, hr, phase, Config.segmentBytes]

theorem State.resolve_abandoning {reason : AbandonReason} (phase : r.phase = .abandoning reason) :
    s.resolve kind x offset pa = (s.layout.decode pa).map .source := by
  simp only [State.resolve, hx, hr, phase]

end

/-- Settles O15: resolution phase by phase, and the place of an address mode by mode. -/
theorem targetResolution : Obligations.TargetResolution := by
  refine ⟨fun s kind x offset pa src hsrc => ⟨fun settled => ?_, fun b r dst hx hr hdst => ⟨?_, ?_, ?_, ?_, ?_⟩⟩,
    fun l address offset i r rise holds hoffset => ?_⟩
  · rw [State.resolve_settled kind offset pa settled, hsrc]; rfl
  · rintro phase rfl
    rw [State.resolve_copying_source .read offset pa hx hr phase (by simp), hsrc]; rfl
  · rintro phase rfl below
    rw [State.resolve_copying_dual offset pa hx hr phase below, hsrc, hdst]; rfl
  · rintro phase rfl above
    rw [State.resolve_copying_source .write offset pa hx hr phase (fun k => Nat.not_lt.mpr above k.2), hsrc]; rfl
  · intro phase
    rw [State.resolve_finishing kind offset pa hx hr phase, hdst]; rfl
  · intro reason phase
    rw [State.resolve_abandoning kind offset pa hx hr phase, hsrc]; rfl
  · rw [Layout.decode_holds rise holds, ← hoffset]
    exact ⟨fun _ => decodeInRange_ch0 offset, fun _ => decodeInRange_ch1 offset,
      fun _ => decodeInRange_both_ch0 offset, fun _ => decodeInRange_both_ch1 offset⟩

/-! ## The one stop (log 19) -/

/-- A request without a resolution is placed on a line that no range holds: its own, or the line's place in the target
range. -/
theorem State.decode_none_of_resolve_none {s : State} {kind : ReqKind} {x : ExtentId} {offset pa : Nat}
    (h : s.resolve kind x offset pa = none) :
    s.layout.decode pa = none ∨
      ∃ b r, s.extent x = .relocating b ∧ s.copyEngine = .running r ∧
        s.layout.decode (r.targetBase * 268435456 + offset) = none := by
  by_cases settled : ∀ b, s.extent x ≠ .relocating b
  · exact .inl (by simpa [State.resolve_settled kind offset pa settled] using h)
  by_cases stopped : ∀ r, s.copyEngine ≠ .running r
  · exact .inl (by simpa [State.resolve_stopped kind offset pa stopped] using h)
  obtain ⟨b, hx⟩ := Classical.not_forall_not.mp settled
  obtain ⟨r, hr⟩ := Classical.not_forall_not.mp stopped
  cases phase : r.phase with
  | copying =>
    by_cases dual : kind = .write ∧ offset / 64 < r.cursor
    · obtain ⟨rfl, below⟩ := dual
      rw [State.resolve_copying_dual offset pa hx hr phase below] at h
      cases hsrc : s.layout.decode pa with
      | none => exact .inl rfl
      | some src => exact .inr ⟨b, r, hx, hr, by simpa [hsrc] using h⟩
    · exact .inl (by simpa [State.resolve_copying_source kind offset pa hx hr phase dual] using h)
  | finishing =>
    exact .inr ⟨b, r, hx, hr, by simpa [State.resolve_finishing kind offset pa hx hr phase] using h⟩
  | abandoning reason =>
    exact .inl (by simpa [State.resolve_abandoning kind offset pa hx hr phase] using h)

/-- Intake finds no range only for a request that its lookup places and that has no resolution. -/
theorem State.intake_noRange {s : State} {p : PortId} {kind : ReqKind} {tag : Byte} {a : Nat}
    (h : s.intake p kind tag a = .noRange) :
    ∃ x g offset pa, s.lookup p kind a = .found x g offset pa ∧ s.resolve kind x offset pa = none := by
  unfold State.intake at h
  split at h
  · cases h
  split at h
  · cases h
  split at h
  · cases h
  split at h
  · cases h
  · cases h
  · cases h
  next x g offset pa found =>
  split at h
  · cases h
  split at h
  · next unresolved => exact ⟨x, g, offset, pa, found, unresolved⟩
  · split at h <;> cases h

/-- A READ or WRITE answers a next state, or stops where intake finds no range. -/
theorem State.takeRequestPacket_cases (s : State) (p : PortId) (kind : ReqKind) (pkt : RawPacket) (ok : Bool)
    (mask : ByteMask) :
    (∃ t, s.takeRequestPacket p kind pkt ok mask = .next t) ∨
      (s.takeRequestPacket p kind pkt ok mask = .fault .addressOutsidePool ∧
        s.intake p kind (packetTag pkt) (packetAddress pkt) = .noRange) := by
  unfold State.takeRequestPacket
  split
  · split
    · split
      · exact .inl ⟨_, rfl⟩
      · exact .inl ⟨_, rfl⟩
      · next none => exact .inr ⟨rfl, none⟩
    · exact .inl ⟨_, rfl⟩
  · exact .inl ⟨_, rfl⟩

/-- A READ or WRITE that stops was placed on a line that no range holds. -/
theorem State.takeRequestPacket_stops (s : State) (p : PortId) (kind : ReqKind) (pkt : RawPacket) (ok : Bool)
    (mask : ByteMask) :
    (∃ t, s.takeRequestPacket p kind pkt ok mask = .next t) ∨
      (s.takeRequestPacket p kind pkt ok mask = .fault .addressOutsidePool ∧
        ∃ x g offset pa, s.lookup p kind (packetAddress pkt) = .found x g offset pa ∧
          (s.layout.decode pa = none ∨
            ∃ b r, s.extent x = .relocating b ∧ s.copyEngine = .running r ∧
              s.layout.decode (r.targetBase * 268435456 + offset) = none)) := by
  refine (s.takeRequestPacket_cases p kind pkt ok mask).imp_right fun ⟨stops, noRange⟩ => ⟨stops, ?_⟩
  obtain ⟨x, g, offset, pa, found, unresolved⟩ := State.intake_noRange noRange
  exact ⟨x, g, offset, pa, found, State.decode_none_of_resolve_none unresolved⟩

/-- Settles O3: the meaning of every command but READ and WRITE is a next state by definition, and those two stop only as
their intake does. -/
theorem onlyUnrangedLinesStop : Obligations.OnlyUnrangedLinesStop := by
  intro c s
  cases c with
  | read p pkt =>
    refine (s.takeRequestPacket_stops p .read pkt (readFieldsOk pkt) 0).imp_right fun ⟨stops, line⟩ => ⟨stops, ?_⟩
    obtain ⟨x, g, offset, pa, unranged⟩ := line
    exact ⟨p, pkt, .read, x, g, offset, pa, .inl ⟨rfl, rfl⟩, unranged⟩
  | write p pkt =>
    refine (s.takeRequestPacket_stops p .write pkt (writeFieldsOk pkt) (packetMask pkt)).imp_right
      fun ⟨stops, line⟩ => ⟨stops, ?_⟩
    obtain ⟨x, g, offset, pa, unranged⟩ := line
    exact ⟨p, pkt, .write, x, g, offset, pa, .inr ⟨rfl, rfl⟩, unranged⟩
  | _ => exact .inl ⟨_, rfl⟩

end Sys2Proof.Machine
end

section
/-! SUPPORT. The answers to requests: a holder request, a report, and the read transaction of the I2C target. -/

namespace Sys2Proof.Machine

/-! ## Holder requests (R177, check 3) -/

/-- A path that does not hold the role is answered NOT_HOLDER. -/
theorem State.holderRequest_other {s : State} {path : MgmtPath} (h : s.receives path) (other : s.holder ≠ pathHolder path)
    (kind : Byte) (act : State → State × Reply) :
    s.request path kind (fun t => t.holderOnly path act) = s.answered path kind .notHolder [] :=
  State.request_unchanged h kind .notHolder [] (State.holderOnly_other (by simpa using other) act)

/-- A holder request that its rule answers at once, the state unchanged. -/
theorem State.holderRequest_unchanged {s : State} {path : MgmtPath} {kind : Byte} {st : MgmtStatus} {data : List Byte}
    {act : State → State × Reply} (m : s.manages path)
    (k : act (s.takeRequest path kind) = (s.takeRequest path kind, .now st data)) :
    s.request path kind (fun t => t.holderOnly path act) = s.answered path kind st data :=
  State.request_unchanged m.1 kind st data ((State.holderOnly_holder (by simpa using m.2) act).trans k)

/-- A holder request that its rule answers at once, with an effect. -/
theorem State.holderRequest_changed {s t : State} {path : MgmtPath} {kind : Byte} {st : MgmtStatus} {data : List Byte}
    {act : State → State × Reply} (m : s.manages path)
    (k : act (s.takeRequest path kind) = (t.takeRequest path kind, .now st data)) :
    s.request path kind (fun t => t.holderOnly path act) = t.answered path kind st data :=
  State.request_changed m.1 ((State.holderOnly_holder (by simpa using m.2) act).trans k)

section
variable (s : State) (path : MgmtPath) (kind : Byte)

theorem State.takeRequest_withLayout (l : Layout) :
    ({ s with layout := l } : State).takeRequest path kind = { s.takeRequest path kind with layout := l } := by
  cases path <;> rfl

theorem State.takeRequest_setPort (p : PortId) (x : LinkPort) :
    (s.setPort p x).takeRequest path kind = (s.takeRequest path kind).setPort p x := by
  cases path <;> rfl

end

/-! ## The edits of the layout (R26, R27) -/

theorem Layout.isOnline_of_offline {l : Layout} (h : l.pool = .offline) : l.isOnline = false := by
  simp [Layout.isOnline, h]

theorem Layout.isOnline_of_not_offline {l : Layout} (h : l.pool ≠ .offline) : l.isOnline = true := by
  cases e : l.pool with
  | offline => exact absurd e h
  | online size c0 c1 => simp [Layout.isOnline, e]

theorem inRange_eq_none {lo hi n : Nat} (h : n < lo ∨ hi < n) : inRange lo hi n = none :=
  if_neg fun k => by omega

theorem inRange_eq_some {lo hi n : Nat} (low : lo ≤ n) (high : n ≤ hi) : inRange lo hi n = some n := if_pos ⟨low, high⟩

theorem modeOperand_eq_none {b : Byte} (h : 2 < b.toNat) : modeOperand b = none := by
  have other : ∀ k : Byte, k.toNat ≤ 2 → b ≠ k := fun k low e => by subst e; omega
  rw [modeOperand, if_neg (other 0 (by decide)), if_neg (other 1 (by decide)), if_neg (other 2 (by decide))]

theorem modeOperand_eq_some {b : Byte} {m : RangeMode} (h : (b = 0 ∧ m = .ch0) ∨ (b = 1 ∧ m = .ch1) ∨ (b = 2 ∧ m = .both)) :
    modeOperand b = some m := by
  rcases h with ⟨rfl, rfl⟩ | ⟨rfl, rfl⟩ | ⟨rfl, rfl⟩ <;> rfl

/-- An edited list has no start. -/
theorem editRanges_starts (l : List LayoutRange) (index limit : Nat) (mode : RangeMode) :
    ∀ r ∈ editRanges l index limit mode, r.ch0Start = none ∧ r.ch1Start = none := by
  intro r hr
  obtain ⟨old, -, rfl⟩ := List.mem_map.mp hr
  exact ⟨rfl, rfl⟩

/-- An edit appends a range or replaces one, and leaves the others their limits and modes. -/
theorem editRanges_limits (l : List LayoutRange) (index limit : Nat) (mode : RangeMode) :
    (editRanges l index limit mode).map (fun r => (r.limit, r.mode)) =
      if index = l.length then l.map (fun r => (r.limit, r.mode)) ++ [(limit, mode)]
      else (l.map (fun r => (r.limit, r.mode))).set index (limit, mode) := by
  have cleared : (fun r : LayoutRange => (r.limit, r.mode)) ∘ LayoutRange.clearStarts = fun r => (r.limit, r.mode) := rfl
  simp only [editRanges, List.map_map, cleared]
  split
  · rw [List.map_append]; rfl
  · rw [List.map_set]

section
variable {s : State} {path : MgmtPath} (m : s.manages path)
include m

theorem State.setLayout_online (online : s.layout.pool ≠ .offline) (i : Byte) (limit : BitVec 16) (mode : Byte) :
    exec (.setLayout path i limit mode) s = .next (s.answered path 0x26 .wrongState []) :=
  congrArg Host.Outcome.next <| State.holderRequest_unchanged m <| by
    simp [Layout.isOnline_of_not_offline online]

theorem State.clearLayout_online (online : s.layout.pool ≠ .offline) :
    exec (.clearLayout path) s = .next (s.answered path 0x27 .wrongState []) :=
  congrArg Host.Outcome.next <| State.holderRequest_unchanged m <| by
    simp [Layout.isOnline_of_not_offline online]

variable (offline : s.layout.pool = .offline)
include offline

theorem State.clearLayout_offline : exec (.clearLayout path) s =
    .next (({ s with layout := { s.layout with ranges := [] } } : State).answered path 0x27 .ok []) :=
  congrArg Host.Outcome.next <| State.holderRequest_changed m <| by
    simp [Layout.isOnline_of_offline offline, State.takeRequest_withLayout]

/-- An index past the end of the list, or no index of a list of eight (R26). -/
theorem State.setLayout_badIndex {i : Byte} (h : s.layout.ranges.length < i.toNat ∨ 7 < i.toNat) (limit : BitVec 16)
    (mode : Byte) : exec (.setLayout path i limit mode) s = .next (s.answered path 0x26 .badRequest []) :=
  congrArg Host.Outcome.next <| State.holderRequest_unchanged m <| by
    simp [Layout.isOnline_of_offline offline, h, State.badRequest]

variable {i : Byte} (inside : i.toNat ≤ s.layout.ranges.length) (index : i.toNat ≤ 7)
include inside index

/-- A limit or a mode out of its range (R26). -/
theorem State.setLayout_badOperand {limit : BitVec 16} {mode : Byte}
    (h : limit.toNat = 0 ∨ 1024 < limit.toNat ∨ 2 < mode.toNat) :
    exec (.setLayout path i limit mode) s = .next (s.answered path 0x26 .badRequest []) :=
  congrArg Host.Outcome.next <| State.holderRequest_unchanged m <| by
    have indexed : ¬ (s.layout.ranges.length < i.toNat ∨ 7 < i.toNat) := by omega
    have absent : inRange 1 1024 limit.toNat = none ∨ modeOperand mode = none := by
      rcases h with low | high | mode
      · exact .inl (inRange_eq_none (.inl (by omega)))
      · exact .inl (inRange_eq_none (.inr high))
      · exact .inr (modeOperand_eq_none mode)
    simp only [State.takeRequest_layout, Layout.isOnline_of_offline offline, Bool.false_eq_true, if_false, if_neg indexed]
    split
    · next limited moded => rcases absent with k | k <;> simp_all
    · rfl

/-- Operands that pass every check edit the list (R26). -/
theorem State.setLayout_edits {limit : BitVec 16} {mode : Byte} {rangeMode : RangeMode} (low : 1 ≤ limit.toNat)
    (high : limit.toNat ≤ 1024) (moded : modeOperand mode = some rangeMode) :
    exec (.setLayout path i limit mode) s = .next (({ s with layout := { s.layout with
      ranges := editRanges s.layout.ranges i.toNat limit.toNat rangeMode } } : State).answered path 0x26 .ok []) :=
  congrArg Host.Outcome.next <| State.holderRequest_changed m <| by
    have indexed : ¬ (s.layout.ranges.length < i.toNat ∨ 7 < i.toNat) := by omega
    simp only [State.takeRequest_layout, Layout.isOnline_of_offline offline, Bool.false_eq_true, if_false, if_neg indexed,
      inRange_eq_some low high, moded, State.takeRequest_withLayout]

end

/-- Settles O46, answer by answer. -/
theorem layoutEdited : Obligations.LayoutEdited := by
  intro s path i limit mode received
  refine ⟨fun other => ⟨?_, ?_⟩, fun holder online => ?_, fun holder offline => ?_⟩
  · exact congrArg Host.Outcome.next (State.holderRequest_other received other _ _)
  · exact congrArg Host.Outcome.next (State.holderRequest_other received other _ _)
  · exact ⟨State.setLayout_online ⟨received, holder⟩ online i limit mode, State.clearLayout_online ⟨received, holder⟩ online⟩
  · have m : s.manages path := ⟨received, holder⟩
    refine ⟨State.clearLayout_offline m offline, fun h => State.setLayout_badIndex m offline h limit mode,
      fun inside index h => State.setLayout_badOperand m offline inside index h,
      fun rangeMode inside index low high moded => ?_⟩
    exact ⟨_, State.setLayout_edits m offline inside index low high (modeOperand_eq_some moded), rfl,
      editRanges_starts _ _ _ _, editRanges_limits _ _ _ _⟩

/-! ## Reports (R183 to R186) -/

/-- What a report reads of the state, but for the slots in READ_PORT, is not what taking the request marks. -/
theorem State.reportStatus_takeRequest (s : State) (path : MgmtPath) (kind : Byte) :
    (s.takeRequest path kind).reportStatus = s.reportStatus := by cases path <;> rfl

theorem State.reportExtent_takeRequest (s : State) (path : MgmtPath) (kind : Byte) (x : ExtentId) :
    (s.takeRequest path kind).reportExtent x = s.reportExtent x := by cases path <;> rfl

theorem State.reportChannel_takeRequest (s : State) (path : MgmtPath) (kind : Byte) (c : ChannelId) :
    (s.takeRequest path kind).reportChannel c = s.reportChannel c := by cases path <;> rfl

theorem State.reportErrors_takeRequest (s : State) (path : MgmtPath) (kind : Byte) :
    (s.takeRequest path kind).reportErrors = s.reportErrors := by cases path <;> rfl

theorem State.report_takeRequest (s : State) (path : MgmtPath) (kind : Byte) (data : List Byte) :
    (s.takeRequest path kind).report data =
      (({ s with fresh := s.fresh + 1 } : State).takeRequest path kind, .now .ok data) := by cases path <;> rfl

/-- A request answered with a report: the response and a free value taken (log 35). -/
theorem State.request_report {s : State} {path : MgmtPath} {kind : Byte} {act : State → State × Reply} {data : List Byte}
    (h : s.receives path) (k : act (s.takeRequest path kind) = (s.takeRequest path kind).report data) :
    s.request path kind act = ({ s with fresh := s.fresh + 1 } : State).answered path kind .ok data :=
  State.request_changed h (k.trans (s.report_takeRequest path kind data))

section
variable {s : State} {path : MgmtPath} (h : s.receives path)
include h

theorem State.readLayout_reports : exec (.readLayout path) s =
    .next (({ s with fresh := s.fresh + 1 } : State).answered path 0x12 .ok s.layout.report) :=
  congrArg Host.Outcome.next <| State.request_report h <| by rw [State.takeRequest_layout]

theorem State.readErrors_reports : exec (.readErrors path) s =
    .next (({ s with fresh := s.fresh + 1 } : State).answered path 0x15 .ok s.reportErrors) :=
  congrArg Host.Outcome.next <| State.request_report h <| by rw [State.reportErrors_takeRequest]

theorem State.readStatus_reports : exec (.readStatus path) s =
    .next (({ s with fresh := s.fresh + 1 } : State).answered path 0x10 .ok s.reportStatus) :=
  congrArg Host.Outcome.next <| State.request_report h <| by rw [State.reportStatus_takeRequest]

theorem State.readExtent_reports {b : Byte} {x : ExtentId} (hb : extentOperand b = some x) :
    exec (.readExtent path b) s =
      .next (({ s with fresh := s.fresh + 1 } : State).answered path 0x11 .ok (s.reportExtent x)) :=
  congrArg Host.Outcome.next <| State.request_report h <| by simp only [hb, State.reportExtent_takeRequest]

theorem State.readChannel_reports {b : Byte} {c : ChannelId} (hb : channelOperand b = some c) :
    exec (.readChannel path b) s =
      .next (({ s with fresh := s.fresh + 1 } : State).answered path 0x14 .ok (s.reportChannel c)) :=
  congrArg Host.Outcome.next <| State.request_report h <| by simp only [hb, State.reportChannel_takeRequest]

theorem State.readPort_reports {b : Byte} {p : PortId} (hb : portOperand b = some p) :
    exec (.readPort path b 0) s =
      .next (({ s with fresh := s.fresh + 1 } : State).answered path 0x13 .ok ((s.takeRequest path 0x13).reportPort p)) :=
  congrArg Host.Outcome.next <| State.request_report h <| by
    have flag : flagOperand 0 = some false := rfl
    simp only [hb, flag]

/-- The clear option clears the port in the step in which it is reported (R58). -/
theorem State.readPort_clears {b : Byte} {p : PortId} (hb : portOperand b = some p) (holder : s.holder = pathHolder path) :
    exec (.readPort path b 1) s =
      .next (({ s.setPort p (s.port p).clearCounters with fresh := s.fresh + 1 } : State).answered path 0x13 .ok
        ((s.takeRequest path 0x13).reportPort p)) :=
  congrArg Host.Outcome.next <| State.request_changed h <| by
    have flag : flagOperand 1 = some true := rfl
    simp only [hb, flag]
    rw [State.holderOnly_holder (by simpa using holder), State.takeRequest_port, ← State.takeRequest_setPort,
      State.report_takeRequest, State.setPort_fresh]

theorem State.peekCompletion_oldest {r : CompletionRecord} {rest : List CompletionRecord} (hc : s.completions = r :: rest) :
    exec (.peekCompletion path) s =
      .next (s.answered path 0x16 .ok (r.encode ++ [BitVec.ofNat 8 (rest.length + 1)])) :=
  congrArg Host.Outcome.next <| State.request_unchanged h _ _ _ <| by
    simp only [State.takeRequest_completions, hc, recordData]

theorem State.peekCompletion_empty (hc : s.completions = []) :
    exec (.peekCompletion path) s = .next (s.answered path 0x16 .notFound []) :=
  congrArg Host.Outcome.next <| State.request_unchanged h _ _ _ <| by
    simp only [State.takeRequest_completions, hc]

end

/-! ## The alert (R190) -/

theorem State.alertCompletion_iff (s : State) : s.alertCompletion = true ↔ s.completions ≠ [] := by
  simp [State.alertCompletion]

theorem State.alertError_iff (s : State) :
    s.alertError = true ↔ ∃ c : ChannelId, (s.channel c).firstError ≠ none := by
  simp [State.alertError, Fin.exists_fin_two, Option.isSome_iff_ne_none]

theorem State.alertInterrupted_iff (s : State) : s.alertInterrupted = true ↔ s.interrupted ≠ none := by
  simp [State.alertInterrupted, Option.isSome_iff_ne_none]

theorem State.alertAsserted_iff (s : State) : s.alertAsserted = true ↔
    s.completions ≠ [] ∨ (∃ c : ChannelId, (s.channel c).firstError ≠ none) ∨ s.interrupted ≠ none := by
  rw [State.alertAsserted, Bool.or_eq_true, Bool.or_eq_true, s.alertCompletion_iff, s.alertError_iff,
    s.alertInterrupted_iff, or_assoc]

/-- The alert byte, bit by bit: the three causes in bits 0 to 2. -/
theorem State.alertByte_bits (s : State) :
    s.alertByte.getLsbD 0 = s.alertCompletion ∧ s.alertByte.getLsbD 1 = s.alertError ∧
      s.alertByte.getLsbD 2 = s.alertInterrupted ∧ ∀ i : Nat, 3 ≤ i → s.alertByte.getLsbD i = false := by
  have small : ∀ b : Byte, b.toNat < 8 → ∀ i : Nat, 3 ≤ i → b.getLsbD i = false := fun b hb i hi =>
    Nat.testBit_lt_two_pow (Nat.lt_of_lt_of_le hb (Nat.pow_le_pow_right (by decide) hi : 2 ^ 3 ≤ 2 ^ i))
  unfold State.alertByte
  cases s.alertCompletion <;> cases s.alertError <;> cases s.alertInterrupted <;>
    exact ⟨rfl, rfl, rfl, small _ (by decide)⟩

/-! ## The read transaction of the I2C target (R174, R197) -/

/-- A transaction at the target's address is acknowledged while the bridge runs. -/
theorem State.i2cRead_answered {s : State} {address : BitVec 7} (running : s.power = .running)
    (h : address.toNat = 0x58 + s.straps.addr.toNat) (i : Nat) :
    s.i2cRead address i = some (s.i2c.readFrame.getD i 0xFF) := by
  have own : address = s.i2cAddress := by
    have := s.straps.addr.isLt
    apply BitVec.eq_of_toNat_eq
    simp [State.i2cAddress, BitVec.toNat_setWidth]
    omega
  simp [State.i2cRead, State.i2cAnswers, running, own]

/-- Past the end of a frame the target gives FFh. -/
theorem getD_past_end {l : List Byte} {i : Nat} (h : l.length ≤ i) : l.getD i 0xFF = 0xFF := by
  simp [List.getD, List.getElem?_eq_none h]

theorem MgmtResponse.length_encode (r : MgmtResponse) : r.encode.length = r.data.length + 4 := by
  simp [MgmtResponse.encode]

/-- A byte of the data stands five places on in the frame, behind the marker and the response's four fields. -/
theorem I2cBuffer.readFrame_data {r : MgmtResponse} {i : Nat} {b : Byte} (h : r.data[i]? = some b) :
    (I2cBuffer.ready r).readFrame.getD (5 + i) 0xFF = b := by
  obtain ⟨hi, rfl⟩ := List.getElem?_eq_some_iff.mp h
  have place : 5 + i = i + 1 + 1 + 1 + 1 + 1 := by omega
  simp [I2cBuffer.readFrame, MgmtResponse.encode, place, List.getD, List.getElem?_append_left hi, hi]

/-- The check byte stands behind the data. -/
theorem I2cBuffer.readFrame_check (r : MgmtResponse) :
    (I2cBuffer.ready r).readFrame.getD (5 + r.data.length) 0xFF = crc8 r.encode := by
  have place : 5 + r.data.length = r.encode.length + 1 := by rw [r.length_encode]; omega
  simp [I2cBuffer.readFrame, place, List.getD]

/-- Settles O42: the frame of the I2C target place by place, the alert cause by cause, and the requests one by one. -/
theorem readRequestsAnswer : Obligations.ReadRequestsAnswer := by
  refine ⟨fun s address running own => ⟨fun buffer => ?_, fun kind buffer => ?_, fun r buffer => ?_⟩, fun s => ?_,
    fun s path h => ?_⟩
  · simp only [State.i2cRead_answered running own, buffer]
    exact ⟨rfl, fun i hi => congrArg some (getD_past_end hi)⟩
  · simp only [State.i2cRead_answered running own, buffer]
    exact ⟨rfl, fun i hi => congrArg some (getD_past_end hi)⟩
  · simp only [State.i2cRead_answered running own, buffer]
    refine ⟨rfl, rfl, rfl, rfl, rfl, fun i b hb => congrArg some (I2cBuffer.readFrame_data hb),
      congrArg some (I2cBuffer.readFrame_check r), fun i hi => congrArg some (getD_past_end ?_)⟩
    simp only [I2cBuffer.readFrame, List.length_cons, List.length_append, List.length_nil, r.length_encode]
    omega
  · obtain ⟨bit0, bit1, bit2, rest⟩ := s.alertByte_bits
    rw [bit0, bit1, bit2]
    exact ⟨s.alertAsserted_iff, s.alertCompletion_iff, s.alertError_iff, s.alertInterrupted_iff, rest⟩
  · exact ⟨State.readLayout_reports h, State.readErrors_reports h, State.readStatus_reports h,
      fun _ _ => State.readExtent_reports h, fun _ _ => State.readChannel_reports h, fun _ _ => State.readPort_reports h,
      fun _ _ => State.readPort_clears h, fun _ _ => State.peekCompletion_oldest h, State.peekCompletion_empty h⟩

end Sys2Proof.Machine
end

section
/-! SUPPORT. What a commit of the pool computes of the list of ranges: the checks of Table 13 and the running totals of
R28. -/

namespace Sys2Proof.Machine

/-! ## Checks 3 and 4 of Table 13 -/

/-- The place of the first range that meets a condition. -/
theorem withLower_findIdx {l : List LayoutRange} {f : Nat × LayoutRange → Bool} {i : Nat} {r : LayoutRange}
    (h : l[i]? = some r) (hf : f (rangeLower l i, r) = true)
    (before : ∀ j, j < i → ∀ r', l[j]? = some r' → f (rangeLower l j, r') = false) :
    (withLower 0 l).findIdx? f = some i := by
  have hi : (withLower 0 l)[i]? = some (rangeLower l i, r) := by rw [withLower_zero, h]; rfl
  obtain ⟨hlt, hget⟩ := List.getElem?_eq_some_iff.mp hi
  rw [List.findIdx?_eq_some_iff_getElem]
  refine ⟨hlt, hget ▸ hf, fun j hj => ?_⟩
  have e := withLower_zero l j
  rw [List.getElem?_eq_getElem (Nat.lt_trans hj hlt)] at e
  obtain ⟨r', hr', e'⟩ := Option.map_eq_some_iff.mp e.symm
  rw [← e', before j hj r' hr']
  exact Bool.false_ne_true

/-- No range meets a condition. -/
theorem withLower_findIdx_none {l : List LayoutRange} {f : Nat × LayoutRange → Bool}
    (h : ∀ i r, l[i]? = some r → f (rangeLower l i, r) = false) : (withLower 0 l).findIdx? f = none := by
  have found := withLower_find_none h
  rw [List.find?_eq_none] at found
  exact List.findIdx?_eq_none_iff.mpr fun x hx => Bool.eq_false_iff.mpr (found x hx)

/-- A range that fails check 3: its limit is not greater than its lower bound. -/
def failsOrder (x : Nat × LayoutRange) : Bool := decide (x.2.limit ≤ x.1)

/-- A range that fails check 4: a BOTH range of odd length. -/
def failsEven (x : Nat × LayoutRange) : Bool := decide (x.2.mode = .both ∧ (x.2.limit - x.1) % 2 = 1)

theorem firstLimitFault_eq (l : List LayoutRange) (index lower : Nat) :
    firstLimitFault index lower l = ((withLower lower l).findIdx? failsOrder).map (· + index) := by
  induction l generalizing index lower with
  | nil => rfl
  | cons r rest ih =>
    by_cases rises : lower < r.limit
    · simp [firstLimitFault, withLower, List.findIdx?_cons, failsOrder, rises, Nat.not_le.mpr rises, ih,
        Function.comp_def, Nat.add_assoc, Nat.add_comm 1]
    · simp [firstLimitFault, withLower, List.findIdx?_cons, failsOrder, rises, Nat.not_lt.mp rises]

theorem firstOddRange_eq (l : List (Nat × LayoutRange)) (index : Nat) :
    firstOddRange index l = (l.findIdx? failsEven).map (· + index) := by
  induction l generalizing index with
  | nil => rfl
  | cons x rest ih =>
    by_cases odd : x.2.mode = .both ∧ (x.2.limit - x.1) % 2 = 1
    · simp [firstOddRange, List.findIdx?_cons, failsEven, odd]
    · simp only [firstOddRange, List.findIdx?_cons, failsEven, odd, ih, decide_false, Bool.false_eq_true, if_false,
        Option.map_map, Function.comp_def, Nat.add_assoc, Nat.add_comm 1]

section
variable {l : List LayoutRange} {i : Nat} {r : LayoutRange}

/-- Check 3 names the first range whose limit does not rise. -/
theorem firstLimitFault_some (rise : limitsRise l i) (h : l[i]? = some r) (falls : r.limit ≤ rangeLower l i) :
    firstLimitFault 0 0 l = some i := by
  rw [firstLimitFault_eq, withLower_findIdx h (by simpa [failsOrder] using falls) fun j hj r' hr' => ?_]
  · rfl
  · simpa [failsOrder] using rise j hj r' hr'

theorem firstLimitFault_none (rise : limitsRise l l.length) : firstLimitFault 0 0 l = none := by
  rw [firstLimitFault_eq, withLower_findIdx_none fun j r hr => ?_]
  · rfl
  · simpa [failsOrder] using rise j (List.getElem?_eq_some_iff.mp hr).1 r hr

theorem failsEven_of_bothEven {n : Nat} (even : bothEven l n) (low : i < n) (h : l[i]? = some r) :
    failsEven (rangeLower l i, r) = false :=
  decide_eq_false fun ⟨both, odd⟩ => Nat.zero_ne_one ((even i low r h both).symm.trans odd)

/-- Check 4 names the first BOTH range of odd length. -/
theorem firstOddRange_some (even : bothEven l i) (h : l[i]? = some r) (both : r.mode = .both)
    (odd : (r.limit - rangeLower l i) % 2 = 1) : firstOddRange 0 (withLower 0 l) = some i := by
  rw [firstOddRange_eq, withLower_findIdx h (decide_eq_true ⟨both, odd⟩) fun j hj _ => failsEven_of_bothEven even hj]
  rfl

theorem firstOddRange_none (even : bothEven l l.length) : firstOddRange 0 (withLower 0 l) = none := by
  rw [firstOddRange_eq,
    withLower_findIdx_none fun j r hr => failsEven_of_bothEven even (List.getElem?_eq_some_iff.mp hr).1 hr]
  rfl

end

/-! ## The starts and the consumption (R28) -/

/-- A range with the running totals before place `i` of the list for its starts. -/
def LayoutRange.withTotals (l : List LayoutRange) (i : Nat) (r : LayoutRange) : LayoutRange :=
  { r with ch0Start := if r.mode.names 0 then some (channelTotal l 0 i) else none,
           ch1Start := if r.mode.names 1 then some (channelTotal l 1 i) else none }

theorem rangeTakes_of_names {l : List LayoutRange} {i : Nat} {r : LayoutRange} (h : l[i]? = some r) (c : ChannelId) :
    rangeTakes l c i = if r.mode.names c then rangeShare (rangeLower l i) r else 0 := by
  have hc : c = 0 ∨ c = 1 := by revert c; decide
  rcases hc with rfl | rfl <;> cases hm : r.mode <;> simp [rangeTakes, rangeShare, RangeMode.names, h, hm]

/-- The total of a channel after one more range, as the commit adds it up. -/
theorem channelTotal_add {l : List LayoutRange} {i : Nat} {r : LayoutRange} (h : l[i]? = some r) (c : ChannelId) :
    (if r.mode.names c then channelTotal l c i + rangeShare (rangeLower l i) r else channelTotal l c i) =
      channelTotal l c (i + 1) := by
  rw [channelTotal_succ, rangeTakes_of_names h]
  split <;> rfl

/-- From any place of the list on, the commit's pass over the ranges gives each the totals before it, and in the end the
totals of the list. -/
theorem computeStarts_from (l : List LayoutRange) {n left : Nat} (h : n + left = l.length) :
    computeStarts (rangeLower l n) (channelTotal l 0 n) (channelTotal l 1 n) (l.drop n) =
      ((l.mapIdx (LayoutRange.withTotals l)).drop n, channelTotal l 0 l.length, channelTotal l 1 l.length) := by
  induction left generalizing n with
  | zero =>
    obtain rfl : n = l.length := h
    rw [List.drop_length, List.drop_eq_nil_of_le (by simp)]
    rfl
  | succ left ih =>
    have low : n < l.length := by omega
    have hn : l[n]? = some l[n] := List.getElem?_eq_getElem low
    have hm : n < (l.mapIdx (LayoutRange.withTotals l)).length := by simpa using low
    have after := ih (n := n + 1) (by omega)
    rw [rangeLower_succ hn] at after
    rw [List.drop_eq_getElem_cons low, List.drop_eq_getElem_cons hm]
    simp only [computeStarts, channelTotal_add hn, after, List.getElem_mapIdx]
    rfl

theorem computeStarts_eq (l : List LayoutRange) :
    computeStarts 0 0 0 l =
      (l.mapIdx (LayoutRange.withTotals l), channelTotal l 0 l.length, channelTotal l 1 l.length) :=
  computeStarts_from l (Nat.zero_add _)

theorem computedConsumption_eq (l : List LayoutRange) (c : ChannelId) :
    computedConsumption l c = channelTotal l c l.length := by
  have hc : c = 0 ∨ c = 1 := by revert c; decide
  rcases hc with rfl | rfl <;> simp [computedConsumption, computeStarts_eq]

theorem committed_pool {l : Layout} {r : LayoutRange} (h : l.ranges.getLast? = some r) :
    l.committed.pool =
      .online r.limit (channelTotal l.ranges 0 l.ranges.length) (channelTotal l.ranges 1 l.ranges.length) := by
  simp [Layout.committed, lastLimit, h, computedConsumption_eq]

/-- A commit leaves every range its limit and its mode. -/
theorem committed_limits (l : Layout) :
    l.committed.ranges.map (fun r => (r.limit, r.mode)) = l.ranges.map (fun r => (r.limit, r.mode)) := by
  simp only [Layout.committed, computeStarts_eq]
  refine List.ext_getElem? fun i => ?_
  cases h : l.ranges[i]? <;> simp [h, LayoutRange.withTotals]

theorem committed_starts (l : Layout) : startsAreTotals l.committed.ranges := by
  intro i r hr
  have totals : ∀ c, channelTotal l.committed.ranges c i = channelTotal l.ranges c i := fun c =>
    channelTotal_congr (committed_limits l) c i
  simp only [Layout.committed, computeStarts_eq, List.getElem?_mapIdx, Option.map_eq_some_iff] at hr
  obtain ⟨old, -, rfl⟩ := hr
  rw [totals 0, totals 1]
  cases hm : old.mode <;> simp [LayoutRange.withTotals, RangeMode.names, hm]

/-! ## Checks 5 and 6 of Table 13 -/

theorem RangeMode.names_iff (m : RangeMode) (c : ChannelId) :
    m.names c = true ↔ m = .both ∨ (m = .ch0 ∧ c = 0) ∨ (m = .ch1 ∧ c = 1) := by
  cases m <;> simp [RangeMode.names]

theorem channelNamed_iff (l : List LayoutRange) (c : ChannelId) : channelNamed l c = true ↔ namesChannel l c := by
  simp only [channelNamed, namesChannel, List.any_eq_true, RangeMode.names_iff]

/-- Nothing is taken from a channel that no range names. -/
theorem channelTotal_unnamed {l : List LayoutRange} {c : ChannelId} (h : channelNamed l c = false) (n : Nat) :
    channelTotal l c n = 0 := by
  induction n with
  | zero => rfl
  | succ n ih =>
    rw [channelTotal_succ, ih, Nat.zero_add]
    cases hn : l[n]? with
    | none => simp [rangeTakes, hn]
    | some r =>
      have unnamed : r.mode.names c = false := by
        simpa using List.any_eq_false.mp h r (List.mem_of_getElem? hn)
      rw [rangeTakes_of_names hn, unnamed]
      rfl

/-- A channel that fails check 5: named by a range and not ONLINE. -/
def State.failsOnline (s : State) : ChannelId → Bool := fun c =>
  channelNamed s.layout.ranges c && decide ((s.channel c).state ≠ .online)

/-- A channel that fails check 6: named by a range and too small. -/
def State.failsCapacity (s : State) : ChannelId → Bool := fun c =>
  channelNamed s.layout.ranges c && decide ((s.channel c).capacity < computedConsumption s.layout.ranges c)

theorem State.failsOnline_iff (s : State) (c : ChannelId) : s.failsOnline c = true ↔ ¬ s.namedOnline c := by
  rw [State.failsOnline, Bool.and_eq_true, channelNamed_iff, decide_eq_true_iff, State.namedOnline, Classical.not_imp]

theorem State.failsCapacity_iff (s : State) (c : ChannelId) : s.failsCapacity c = true ↔ ¬ s.fitsChannel c := by
  rw [State.failsCapacity, Bool.and_eq_true, decide_eq_true_iff, computedConsumption_eq, State.fitsChannel, Nat.not_le]
  refine and_iff_right_of_imp fun exceeds => ?_
  cases h : channelNamed s.layout.ranges c with
  | true => rfl
  | false => rw [channelTotal_unnamed h] at exceeds; exact absurd exceeds (Nat.not_lt_zero _)

section
variable {fails : ChannelId → Bool}

theorem firstChannel_zero (h : fails 0 = true) : firstChannel fails = some 0 := by simp [firstChannel, h]

theorem firstChannel_one (h0 : fails 0 = false) (h1 : fails 1 = true) : firstChannel fails = some 1 := by
  simp [firstChannel, h0, h1]

theorem firstChannel_none (h0 : fails 0 = false) (h1 : fails 1 = false) : firstChannel fails = none := by
  simp [firstChannel, h0, h1]

end

/-! ## The refusals in their order -/

section
variable {s : State}

theorem State.commitRefusal_noRanges (h : s.layout.ranges = []) : s.commitRefusal = some (.noRanges, []) := by
  simp [State.commitRefusal, h]

theorem State.commitRefusal_limitOrder {i : Nat} {r : LayoutRange} (rise : limitsRise s.layout.ranges i)
    (h : s.layout.ranges[i]? = some r) (falls : r.limit ≤ rangeLower s.layout.ranges i) :
    s.commitRefusal = some (.limitOrder, [BitVec.ofNat 8 i]) := by
  have listed : s.layout.ranges ≠ [] := fun e => by simp [e] at h
  simp only [State.commitRefusal, if_neg listed, firstLimitFault_some rise h falls]

theorem State.commitRefusal_oddLength {i : Nat} {r : LayoutRange} (rise : limitsRise s.layout.ranges s.layout.ranges.length)
    (even : bothEven s.layout.ranges i) (h : s.layout.ranges[i]? = some r) (both : r.mode = .both)
    (odd : (r.limit - rangeLower s.layout.ranges i) % 2 = 1) :
    s.commitRefusal = some (.oddLength, [BitVec.ofNat 8 i]) := by
  have listed : s.layout.ranges ≠ [] := fun e => by simp [e] at h
  simp only [State.commitRefusal, if_neg listed, firstLimitFault_none rise, firstOddRange_some even h both odd]

variable (listed : s.layout.ranges ≠ []) (rise : limitsRise s.layout.ranges s.layout.ranges.length)
  (even : bothEven s.layout.ranges s.layout.ranges.length)
include listed rise even

/-- A list that passes the checks on the ranges themselves is left to those on the channels. -/
theorem State.commitRefusal_listed : s.commitRefusal =
    ((firstChannel s.failsOnline).map fun c => (.channelNotOnline, [finByte c])).or
      ((firstChannel s.failsCapacity).map fun c => (.capacity, [finByte c])) := by
  simp only [State.commitRefusal, if_neg listed, firstLimitFault_none rise, firstOddRange_none even]
  split
  · next c offline => rw [show firstChannel s.failsOnline = some c from offline]; rfl
  · next online =>
    rw [show firstChannel s.failsOnline = none from online]
    split
    · next c exceeds => rw [show firstChannel s.failsCapacity = some c from exceeds]; rfl
    · next fits => rw [show firstChannel s.failsCapacity = none from fits]; rfl

/-- The checks on the channels, CH0 before CH1 in each. -/
theorem State.commitRefusal_channels :
    (¬ s.namedOnline 0 → s.commitRefusal = some (.channelNotOnline, [0])) ∧
    (s.namedOnline 0 → ¬ s.namedOnline 1 → s.commitRefusal = some (.channelNotOnline, [1])) ∧
    (s.namedOnline 0 → s.namedOnline 1 → ¬ s.fitsChannel 0 → s.commitRefusal = some (.capacity, [0])) ∧
    (s.namedOnline 0 → s.namedOnline 1 → s.fitsChannel 0 → ¬ s.fitsChannel 1 →
      s.commitRefusal = some (.capacity, [1])) ∧
    (s.namedOnline 0 → s.namedOnline 1 → s.fitsChannel 0 → s.fitsChannel 1 → s.commitRefusal = none) := by
  rw [State.commitRefusal_listed listed rise even]
  have off : ∀ c, ¬ s.namedOnline c → s.failsOnline c = true := fun c => (s.failsOnline_iff c).mpr
  have on : ∀ c, s.namedOnline c → s.failsOnline c = false := fun c h =>
    Bool.eq_false_iff.mpr fun k => (s.failsOnline_iff c).mp k h
  have exceeds : ∀ c, ¬ s.fitsChannel c → s.failsCapacity c = true := fun c => (s.failsCapacity_iff c).mpr
  have fits : ∀ c, s.fitsChannel c → s.failsCapacity c = false := fun c h =>
    Bool.eq_false_iff.mpr fun k => (s.failsCapacity_iff c).mp k h
  refine ⟨fun h => ?_, fun on0 h => ?_, fun on0 on1 h => ?_, fun on0 on1 fits0 h => ?_, fun on0 on1 fits0 fits1 => ?_⟩
  · rw [firstChannel_zero (off 0 h)]; rfl
  · rw [firstChannel_one (on 0 on0) (off 1 h)]; rfl
  · rw [firstChannel_none (on 0 on0) (on 1 on1), firstChannel_zero (exceeds 0 h)]; rfl
  · rw [firstChannel_none (on 0 on0) (on 1 on1), firstChannel_one (fits 0 fits0) (exceeds 1 h)]; rfl
  · rw [firstChannel_none (on 0 on0) (on 1 on1), firstChannel_none (fits 0 fits0) (fits 1 fits1)]; rfl

end

theorem State.commitRefusal_takeRequest (s : State) (path : MgmtPath) (kind : Byte) :
    (s.takeRequest path kind).commitRefusal = s.commitRefusal := by
  simp only [State.commitRefusal, State.takeRequest_layout, State.takeRequest_channel]

/-! ## POOL_COMMIT and POOL_TEARDOWN -/

section
variable {s : State} {path : MgmtPath} (m : s.manages path)
include m

theorem State.poolCommit_online (online : s.layout.pool ≠ .offline) :
    exec (.poolCommit path) s = .next (s.answered path 0x28 .wrongState []) :=
  congrArg Host.Outcome.next <| State.holderRequest_unchanged m <| by
    simp [Layout.isOnline_of_not_offline online]

theorem State.poolTeardown_offline (offline : s.layout.pool = .offline) :
    exec (.poolTeardown path) s = .next (s.answered path 0x29 .wrongState []) :=
  congrArg Host.Outcome.next <| State.holderRequest_unchanged m <| by
    simp [Layout.isOnline_of_offline offline]

theorem State.poolCommit_refused (offline : s.layout.pool = .offline) {reason : RefusedReason} {detail : List Byte}
    (h : s.commitRefusal = some (reason, detail)) :
    exec (.poolCommit path) s = .next (s.answered path 0x28 (.refused reason) detail) :=
  congrArg Host.Outcome.next <| State.holderRequest_unchanged m <| by
    simp [Layout.isOnline_of_offline offline, State.commitRefusal_takeRequest, h]

theorem State.poolCommit_commits (offline : s.layout.pool = .offline) (h : s.commitRefusal = none) :
    exec (.poolCommit path) s = .next (({ s with layout := s.layout.committed } : State).answered path 0x28 .ok
      (le 2 s.layout.committed.size ++ le 2 (s.layout.committed.consumption 0) ++
        le 2 (s.layout.committed.consumption 1))) :=
  congrArg Host.Outcome.next <| State.holderRequest_changed m <| by
    simp only [State.takeRequest_layout, Layout.isOnline_of_offline offline, Bool.false_eq_true, if_false,
      State.commitRefusal_takeRequest, h, State.takeRequest_withLayout]

theorem State.poolTeardown_inUse (online : s.layout.pool ≠ .offline) (used : ∃ x : ExtentId, s.extent x ≠ .free) :
    exec (.poolTeardown path) s = .next (s.answered path 0x29 (.refused .extentsInUse) []) :=
  congrArg Host.Outcome.next <| State.holderRequest_unchanged m <| by
    obtain ⟨x, hx⟩ := used
    have inUse : allExtents.any (fun x => !(s.extent x).isFree) = true :=
      List.any_eq_true.mpr ⟨x, mem_allExtents x, by
        rw [Bool.not_eq_true', Bool.eq_false_iff]
        exact fun free => hx (Extent.eq_free_of_isFree free)⟩
    simp only [State.takeRequest_layout, Layout.isOnline_of_not_offline online, State.takeRequest_extent, inUse, if_true]

theorem State.poolTeardown_free (online : s.layout.pool ≠ .offline) (free : ∀ x : ExtentId, s.extent x = .free) :
    exec (.poolTeardown path) s =
      .next (({ s with layout := s.layout.tornDown } : State).answered path 0x29 .ok []) :=
  congrArg Host.Outcome.next <| State.holderRequest_changed m <| by
    have unused : allExtents.any (fun x => !(s.extent x).isFree) = false :=
      List.any_eq_false.mpr fun x _ => by simp [free x, Extent.isFree]
    simp only [State.takeRequest_layout, Layout.isOnline_of_not_offline online, State.takeRequest_extent, unused, if_true,
      Bool.false_eq_true, if_false, State.takeRequest_withLayout]

end

/-! ## The queries (R34, R35) -/

theorem Layout.segmentOn_iff {l : Layout} (rise : limitsRise l.ranges l.ranges.length) {i : Nat} {r : LayoutRange} {seg : Nat}
    (h : holdsSegment l.ranges i r seg) (c : ChannelId) :
    l.segmentOn seg c = true ↔ r.mode = .both ∨ (r.mode = .ch0 ∧ c = 0) ∨ (r.mode = .ch1 ∧ c = 1) := by
  rw [Layout.segmentOn, rangeOfSegment_holds rise h]
  exact r.mode.names_iff c

theorem Layout.consumption_offline {l : Layout} (h : l.pool = .offline) (c : ChannelId) : l.consumption c = 0 := by
  simp [Layout.consumption, h]

theorem Layout.uses_iff (l : Layout) (c : ChannelId) : l.uses c = true ↔ l.pool ≠ .offline ∧ 0 < l.consumption c := by
  rw [Layout.uses, decide_eq_true_iff]
  refine (and_iff_right_of_imp fun used offline => ?_).symm
  exact Nat.ne_of_gt used (Layout.consumption_offline offline c)

theorem Layout.segmentOfLine_offline {l : Layout} (h : l.pool = .offline) (c : ChannelId) (line : Nat) :
    l.segmentOfLine c line = none := by simp [Layout.segmentOfLine, h]

theorem Layout.segmentOfLine_online {l : Layout} (h : l.pool ≠ .offline) (c : ChannelId) (line : Nat) :
    l.segmentOfLine c line = segmentIn l.ranges c line := by
  cases e : l.pool with
  | offline => exact absurd e h
  | online size c0 c1 => simp [Layout.segmentOfLine, e]

/-- Settles O47: the refusals in their order, the layout of a commit and of a teardown, and the queries. -/
theorem poolCommitAndTeardown : Obligations.PoolCommitAndTeardown := by
  refine ⟨?requests, ?queries⟩
  case requests =>
    rintro s path l m rfl
    refine ⟨State.poolCommit_online m,
      fun offline empty => State.poolCommit_refused m offline (State.commitRefusal_noRanges empty),
      fun i r offline rise hr falls =>
        State.poolCommit_refused m offline (State.commitRefusal_limitOrder rise hr falls),
      fun i r offline rise even hr both odd =>
        State.poolCommit_refused m offline (State.commitRefusal_oddLength rise even hr both odd),
      fun offline listed rise even => ?channels, State.poolTeardown_offline m, State.poolTeardown_inUse m,
      fun online free => ⟨_, State.poolTeardown_free m online free, rfl, rfl, rfl, ?limits, ?starts⟩⟩
    case channels =>
      obtain ⟨off0, off1, over0, over1, passes⟩ := State.commitRefusal_channels listed rise even
      refine ⟨fun h => State.poolCommit_refused m offline (off0 h),
        fun on0 h => State.poolCommit_refused m offline (off1 on0 h),
        fun on0 on1 h => State.poolCommit_refused m offline (over0 on0 on1 h),
        fun on0 on1 fits0 h => State.poolCommit_refused m offline (over1 on0 on1 fits0 h),
        fun on0 on1 fits0 fits1 => ?_⟩
      refine ⟨_, _, State.poolCommit_commits m offline (passes on0 on1 fits0 fits1), rfl, rfl, ?_,
        committed_limits s.layout, committed_starts s.layout⟩
      rintro r c0 c1 last rfl rfl
      have pool := committed_pool last
      exact ⟨pool, by simp only [Layout.size, Layout.consumption, pool]; rfl⟩
    case limits =>
      simp only [Layout.tornDown, List.map_map]
      rfl
    case starts =>
      intro r hr
      obtain ⟨old, -, rfl⟩ := List.mem_map.mp hr
      exact ⟨rfl, rfl⟩
  case queries =>
    intro l c rise
    refine ⟨fun i r seg holds => Layout.segmentOn_iff rise holds c, l.uses_iff c,
      fun offline => ⟨Layout.consumption_offline offline c, Layout.segmentOfLine_offline offline c⟩,
      fun size c0 c1 pool => by simp [Layout.consumption, pool], ?_⟩
    rintro line g online totals rfl
    rw [Layout.segmentOfLine_online online]
    refine ⟨fun i r start covers => ⟨fun single => ?_, ?_⟩, segmentIn_none totals⟩
    · rw [segmentIn_covers totals covers, if_neg single]
    · rintro k block both rfl rfl
      rw [segmentIn_covers totals covers, if_pos both]

end Sys2Proof.Machine
end

section
/-! SUPPORT. The intake of READ and WRITE, check by check (R66 to R72), and the data of a write (R74 to R76). -/

namespace Sys2Proof.Machine

/-! ## A port that receives packets -/

theorem State.linked_of_hears {s : State} {p : PortId} (h : s.hears p) : (s.port p).state.linked = true := by
  obtain ⟨-, state | state | state⟩ := h <;> rw [state] <;> rfl

@[simp] theorem State.setPort_setPort (s : State) (p : PortId) (x y : LinkPort) :
    (s.setPort p x).setPort p y = s.setPort p y := by simp [State.setPort]

/-! ## The checks of intake (R68 to R71) -/

/-- The MOVING check: a handover in DRAIN that takes this access to its extent from this port (R69). -/
theorem State.isMoving_iff (s : State) (p : PortId) (kind : ReqKind) (x : ExtentId) :
    s.isMoving p kind x = true ↔ ∃ b id h, s.extent x = .changing b id ∧ s.active = some h ∧ h.extent = x ∧
      h.losing = p ∧ h.phase = .drain ∧ (h.kind ≠ .downgrade ∨ kind = .write) := by
  unfold State.isMoving
  split
  · next b id h hx ha => simp [hx, ha, Handover.writesOnly, and_assoc]
  · next none => simpa using fun b id hx h ha => absurd ha (none b id h hx)

section
variable (s : State) (src dst : Target)

theorem State.channelCheck_source : s.channelCheck (.source src) =
    if (s.channel src.channel).state = .online then some (.source src) else none := by
  simp [State.channelCheck, State.isOnline]

theorem State.channelCheck_dest : s.channelCheck (.dest dst) =
    if (s.channel dst.channel).state = .online then some (.dest dst) else none := by
  simp [State.channelCheck, State.isOnline]

/-- A DUAL write needs its source channel, and is SOURCE where its destination alone is down (R71). -/
theorem State.channelCheck_dual : s.channelCheck (.dual src dst) =
    if (s.channel src.channel).state = .online then
      if (s.channel dst.channel).state = .online then some (.dual src dst) else some (.source src)
    else none := by
  simp [State.channelCheck, State.isOnline]

end

section
variable {s : State} {p : PortId} {kind : ReqKind} {tag : Byte} {a : Nat}

theorem State.intake_notOpen (closed : (s.port p).state ≠ .opened) : s.intake p kind tag a = .refused .notOpen := by
  simp [State.intake, closed]

variable (opened : (s.port p).state = .opened)
include opened

theorem State.intake_overrun (full : (s.port p).granted kind ≤ countedOf kind (s.tracker p)) :
    s.intake p kind tag a = .refused .overrun := by
  simp [State.intake, opened, full]

variable (room : countedOf kind (s.tracker p) < (s.port p).granted kind)
include room

theorem State.intake_tagInUse (used : (countedEntry (s.tracker p) kind tag).isSome = true) :
    s.intake p kind tag a = .refused .tagInUse := by
  simp [State.intake, opened, Nat.not_le.mpr room, used]

variable (unused : (countedEntry (s.tracker p) kind tag).isSome = false)
include unused

theorem State.intake_outOfWindow (h : s.lookup p kind a = .outOfWindow) :
    s.intake p kind tag a = .refused .outOfWindow := by
  simp [State.intake, opened, Nat.not_le.mpr room, unused, h]

theorem State.intake_unmapped (h : s.lookup p kind a = .unmapped) : s.intake p kind tag a = .refused .unmapped := by
  simp [State.intake, opened, Nat.not_le.mpr room, unused, h]

theorem State.intake_noRight (h : s.lookup p kind a = .noRight) : s.intake p kind tag a = .refused .noRight := by
  simp [State.intake, opened, Nat.not_le.mpr room, unused, h]

variable {x : ExtentId} {g : Generation} {offset pa : Nat} (found : s.lookup p kind a = .found x g offset pa)
include found

theorem State.intake_moving (moving : s.isMoving p kind x = true) : s.intake p kind tag a = .refused .moving := by
  simp [State.intake, opened, Nat.not_le.mpr room, unused, found, moving]

/-- A request that is not MOVING and has a resolution: the channels decide (R71). -/
theorem State.intake_resolved (still : s.isMoving p kind x = false) {r : Resolution}
    (resolved : s.resolve kind x offset pa = some r) :
    s.intake p kind tag a = (s.channelCheck r).elim (.refused .channelDown) (.accepted x g (offset / 64)) := by
  simp only [State.intake, opened, Nat.not_le.mpr room, unused, found, still, resolved, Config.lineBytes]
  cases s.channelCheck r <;> rfl

end

/-- Settles O13: each check under those before it, and the channels of the resolution last. -/
theorem intakeChecksInOrder : Obligations.IntakeChecksInOrder := by
  intro s p kind tag a
  refine ⟨State.intake_notOpen, State.intake_overrun,
    fun opened room used => State.intake_tagInUse opened room (countedEntry_isSome.mpr used),
    fun opened room free => ?_⟩
  have unused : (countedEntry (s.tracker p) kind tag).isSome = false :=
    Bool.eq_false_iff.mpr fun k => by
      obtain ⟨e, mem, hkind, htag, counted⟩ := countedEntry_isSome.mp k
      exact counted (free e mem hkind htag)
  refine ⟨State.intake_outOfWindow opened room unused, State.intake_unmapped opened room unused,
    State.intake_noRight opened room unused, ?moving, ?resolved⟩
  case moving =>
    intro x g offset pa b id h found hx ha extent losing phase takes
    exact State.intake_moving opened room unused found
      ((s.isMoving_iff p kind x).mpr ⟨b, id, h, hx, ha, extent, losing, phase, takes⟩)
  case resolved =>
    intro x g offset pa found spared
    have still : s.isMoving p kind x = false := Bool.eq_false_iff.mpr fun k => by
      obtain ⟨b, id, h, hx, ha, extent, losing, phase, takes⟩ := (s.isMoving_iff p kind x).mp k
      obtain ⟨downgrade, rfl⟩ := spared b id h hx ha extent losing phase
      exact takes.elim (fun ne => ne downgrade) (by simp)
    have decides := fun r => State.intake_resolved (tag := tag) opened room unused found still (r := r)
    refine ⟨fun src resolved => ?_, fun dst resolved => ?_, fun src dst resolved => ?_⟩
    · rw [decides _ resolved, State.channelCheck_source]; split <;> rfl
    · rw [decides _ resolved, State.channelCheck_dest]; split <;> rfl
    · rw [decides _ resolved, State.channelCheck_dual]
      split
      · split <;> rfl
      · rfl

/-! ## A request's answer (R66, R67, R72) -/

section
variable {s : State} {p : PortId} {kind : ReqKind} {pkt : RawPacket}

section
variable (hears : s.hears p) (mask : ByteMask)
include hears

theorem State.takeRequestPacket_accepted {x : ExtentId} {g : Generation} {line : Nat} {r : Resolution}
    (h : s.intake p kind (packetTag pkt) (packetAddress pkt) = .accepted x g line r) :
    s.takeRequestPacket p kind pkt true mask =
      .next (s.setTracker p (s.tracker p ++ [s.newEntry kind (packetTag pkt) x g line r mask])) := by
  simp [State.takeRequestPacket, hears.1, State.linked_of_hears hears, h]

theorem State.takeRequestPacket_refused {reason : AbortReason}
    (h : s.intake p kind (packetTag pkt) (packetAddress pkt) = .refused reason) :
    s.takeRequestPacket p kind pkt true mask = .next (s.refuse p kind (packetTag pkt) reason) := by
  simp [State.takeRequestPacket, hears.1, State.linked_of_hears hears, h]

theorem State.takeRequestPacket_malformed :
    s.takeRequestPacket p kind pkt false mask = .next (s.refuseMalformed p kind pkt) := by
  simp [State.takeRequestPacket, hears.1, State.linked_of_hears hears]

end

variable (linked : (s.port p).state.linked = true) (tag : Byte)
include linked

/-- A refusal that is no protocol error hands the port its abort and does nothing else. -/
theorem State.refuse_uncounted {reason : AbortReason} (h : reason.protocolError? = none) :
    s.refuse p kind tag reason =
      s.setPort p { s.port p with outbox := (s.port p).outbox ++ [refusalOf kind tag reason] } := by
  simp only [State.refuse, h, State.send, State.sendAll_linked linked]

/-- A refusal that is a protocol error is counted too. -/
theorem State.refuse_counted {reason : AbortReason} {error : PortErrorKind} (h : reason.protocolError? = some error) :
    s.refuse p kind tag reason = s.setPort p { (s.port p).protocolError error (some tag) with
      outbox := (s.port p).outbox ++ [refusalOf kind tag reason] } := by
  have same : ((s.protocolError p error (some tag)).port p).state.linked = true := by
    simpa [State.protocolError, LinkPort.protocolError] using linked
  simp only [State.refuse, h, State.send, State.sendAll_linked same]
  simp [State.protocolError, LinkPort.protocolError]

end

theorem refusalOf_eq (kind : ReqKind) (tag : Byte) (reason : AbortReason) :
    refusalOf kind tag reason = if kind = .read then .rdAbort tag reason none else .wrAbort tag reason none := by
  cases kind <;> rfl

theorem AbortReason.protocolError?_eq_none {reason : AbortReason} (overrun : reason ≠ .overrun)
    (tagInUse : reason ≠ .tagInUse) (malformed : reason ≠ .malformed) : reason.protocolError? = none := by
  unfold AbortReason.protocolError?
  split
  · exact absurd rfl malformed
  · exact absurd rfl overrun
  · exact absurd rfl tagInUse
  · rfl

/-- A protocol error latches into an empty record alone (R58). -/
theorem LinkPort.protocolError_error (x : LinkPort) (kind : PortErrorKind) (tag : Option Byte) :
    (∀ e, x.error = some e → (x.protocolError kind tag).error = some e) ∧
    (x.error = none → (x.protocolError kind tag).error = some { kind := kind, tag := tag }) :=
  ⟨fun e h => by simp [LinkPort.protocolError, h], fun h => by simp [LinkPort.protocolError, h]⟩

/-- Settles O16: the entry that intake makes of each kind. -/
theorem requestsAccepted : Obligations.RequestsAccepted := by
  intro s p pkt x g line r hears
  refine ⟨fun ok accepted => ?_, fun ok accepted => ?_⟩
  · show s.takeRequestPacket p .read pkt (readFieldsOk pkt) 0 = _
    rw [ok, State.takeRequestPacket_accepted hears 0 accepted]; rfl
  · show s.takeRequestPacket p .write pkt (writeFieldsOk pkt) (packetMask pkt) = _
    rw [ok, State.takeRequestPacket_accepted hears _ accepted]; rfl

/-- READ and WRITE are one request but for their fields and the mask. -/
theorem exec_request {c : Instr} {p : PortId} {pkt : RawPacket} {kind : ReqKind} {ok : Bool}
    (h : (c = .read p pkt ∧ kind = .read ∧ ok = readFieldsOk pkt) ∨
      (c = .write p pkt ∧ kind = .write ∧ ok = writeFieldsOk pkt)) (s : State) :
    ∃ mask, exec c s = s.takeRequestPacket p kind pkt ok mask := by
  obtain ⟨rfl, rfl, rfl⟩ | ⟨rfl, rfl, rfl⟩ := h <;> exact ⟨_, rfl⟩

/-- Settles O17: a refusal of intake by whether its reason is a protocol error, and a malformed packet by whether it
holds a tag. -/
theorem requestsRefused : Obligations.RequestsRefused := by
  intro s p pkt c kind ok hears request
  obtain ⟨mask, exec_eq⟩ := exec_request request s
  have linked := State.linked_of_hears hears
  rw [exec_eq]
  refine ⟨?refused, ?malformed⟩
  case refused =>
    rintro reason rfl refused
    rw [State.takeRequestPacket_refused hears mask refused, ← refusalOf_eq]
    cases error : reason.protocolError? with
    | none =>
      rw [State.refuse_uncounted linked _ error]
      refine ⟨_, rfl, rfl, ?_, fun _ _ _ => rfl⟩
      rintro (rfl | rfl) <;> cases error
    | some e =>
      rw [State.refuse_counted linked _ error]
      refine ⟨_, rfl, rfl, fun _ => ⟨rfl, (LinkPort.protocolError_error _ e _).1⟩, fun overrun tagInUse malformed => ?_⟩
      cases (AbortReason.protocolError?_eq_none overrun tagInUse malformed).symm.trans error
  case malformed =>
    rintro rfl
    rw [State.takeRequestPacket_malformed hears mask]
    cases body : pkt.body with
    | nil =>
      have untagged : readableTag pkt = none := by simp [readableTag, body]
      obtain ⟨keeps, latches⟩ := (s.port p).protocolError_error .malformed none
      simp only [State.refuseMalformed, untagged]
      exact ⟨_, rfl, rfl, keeps, latches, nofun, fun _ => rfl⟩
    | cons tag rest =>
      have tagged : readableTag pkt = some tag := by simp [readableTag, body]
      obtain ⟨keeps, latches⟩ := (s.port p).protocolError_error .malformed (some tag)
      simp only [State.refuseMalformed, tagged]
      rw [State.refuse_counted linked tag (error := .malformed) rfl]
      refine ⟨_, rfl, rfl, keeps, latches, ?_, nofun⟩
      rintro _ _ ⟨rfl, rfl⟩
      rw [refusalOf_eq]

/-! ## The data of a write (R74 to R76) -/

theorem wdataFieldsOk_iff (pkt : RawPacket) : wdataFieldsOk pkt = true ↔
    pkt.len.toNat = 34 ∧ pkt.body.length = 34 ∧ (packetHalf pkt = 0 ∨ packetHalf pkt = 1) := by
  simp [wdataFieldsOk, lengthOk, and_assoc]

/-- A tracker without a counted entry of the kind and tag stays as it is. -/
theorem updateEntry_id {l : List Entry} {kind : ReqKind} {tag : Byte}
    (h : ∀ x ∈ l, (x.is kind tag && x.counted) = false) (f : Entry → Entry) : updateEntry l kind tag f = l :=
  (List.map_congr_left fun x hx => by simp [h x hx]).trans (List.map_id' l)

section
variable {l1 l2 : List Entry} {e : Entry} {kind : ReqKind} {tag : Byte}
  (named : (e.is kind tag && e.counted) = true) (alone : ∀ x ∈ l1 ++ l2, (x.is kind tag && x.counted) = false)
include named alone

/-- The one counted entry of a kind and tag is found. -/
theorem countedEntry_split : countedEntry (l1 ++ e :: l2) kind tag = some e := by
  have before : l1.find? (fun x => x.is kind tag && x.counted) = none :=
    List.find?_eq_none.mpr fun x hx => by simp [alone x (List.mem_append_left _ hx)]
  rw [countedEntry, List.find?_append, before, Option.none_or]
  exact List.find?_cons_of_pos named

/-- The one counted entry of a kind and tag is changed, and no other. -/
theorem updateEntry_split (f : Entry → Entry) : updateEntry (l1 ++ e :: l2) kind tag f = l1 ++ f e :: l2 := by
  have before := updateEntry_id (fun x hx => alone x (List.mem_append_left _ hx)) f
  have behind := updateEntry_id (fun x hx => alone x (List.mem_append_right _ hx)) f
  simp only [updateEntry] at before behind ⊢
  simp only [List.map_append, List.map_cons, before, behind, named, if_true]

end

section
variable {s : State} {p : PortId} {tag half : Byte} (d : HalfData)

/-- Data that its one write waits for is stored in it (R74). -/
theorem State.takeData_stored {l1 l2 : List Entry} {e : Entry} (tracker : s.tracker p = l1 ++ e :: l2)
    (named : (e.is .write tag && e.counted) = true) (alone : ∀ x ∈ l1 ++ l2, (x.is .write tag && x.counted) = false)
    (wants : e.wantsHalf half = true) :
    s.takeData p tag half d = s.setTracker p (l1 ++ e.takeHalf half d :: l2) := by
  simp only [State.takeData, tracker, countedEntry_split named alone, wants, if_true, updateEntry_split named alone]

/-- Data that no counted write waits for is orphan data (R75). -/
theorem State.takeData_orphan (h : ∀ e ∈ s.tracker p, e.kind = .write → e.opTag = tag → e.wantsHalf half = false) :
    s.takeData p tag half d = s.orphan p := by
  unfold State.takeData
  split
  · next e found =>
    have named : e.kind = .write ∧ e.opTag = tag := by
      have := List.find?_some found
      simp only [Entry.is, Bool.and_eq_true, decide_eq_true_eq] at this
      exact this.1
    simp [h e (List.mem_of_find?_eq_some found) named.1 named.2]
  · rfl

end

section
variable (e : Entry) (d : HalfData)

/-- Half 0 stored: the write waits on for half 1, or has both (R74). -/
theorem Entry.takeHalf_zero : e.takeHalf 0 d = if e.half1 = none then { e with half0 := some d }
    else { e with half0 := some d, state := .waitChannel, timer := none } := by
  cases h : e.half1 <;> simp [Entry.takeHalf, h]

/-- Half 1 stored: the write waits on for half 0, or has both (R74). -/
theorem Entry.takeHalf_one : e.takeHalf 1 d = if e.half0 = none then { e with half1 := some d }
    else { e with half1 := some d, state := .waitChannel, timer := none } := by
  cases h : e.half0 <;> simp [Entry.takeHalf, h]

end

section
variable {s : State} {p : PortId} {pkt : RawPacket} (hears : s.hears p)
include hears

theorem exec_wdata_taken (ok : wdataFieldsOk pkt = true) :
    exec (.wdata p pkt) s = .next (s.takeData p (packetTag pkt) (packetHalf pkt) (packetHalfData pkt)) := by
  show execWdata p pkt s = _
  rw [execWdata, State.onPacket_hears hears, if_pos ok]

theorem exec_wdata_malformed (bad : wdataFieldsOk pkt = false) :
    exec (.wdata p pkt) s = .next (s.protocolError p .malformed (readableTag pkt)) := by
  show execWdata p pkt s = _
  rw [execWdata, State.onPacket_hears hears, bad]; rfl

end

/-- The length or the half number of a malformed WDATA is wrong (R194). -/
theorem wdataFieldsOk_eq_false {pkt : RawPacket}
    (h : pkt.len ≠ 34 ∨ pkt.body.length ≠ 34 ∨ ∃ half, pkt.body[1]? = some half ∧ half ≠ 0 ∧ half ≠ 1) :
    wdataFieldsOk pkt = false := by
  refine Bool.eq_false_iff.mpr fun ok => ?_
  obtain ⟨len, body, half⟩ := (wdataFieldsOk_iff pkt).mp ok
  obtain bad | bad | ⟨b, there, ne0, ne1⟩ := h
  · exact bad (BitVec.eq_of_toNat_eq len)
  · exact bad body
  · have : packetHalf pkt = b := by simp [packetHalf, there]
    exact half.elim (this ▸ ne0) (this ▸ ne1)

section
variable (tag : Byte) (l : List Entry)

/-- The writes that a write data timer's expiry finds in WAIT_DATA (R76). -/
def Entry.timesOut (tag : Byte) (e : Entry) : Bool :=
  decide (e.kind = .write) && decide (e.opTag = tag) && decide (e.state = .waitData)

theorem Entry.onDataTimeout_eq (e : Entry) : e.onDataTimeout tag =
    if e.timesOut tag then .answer (.wrAbort tag .dataTimeout (some e.generation)) else .keep e := by
  unfold Entry.onDataTimeout Entry.timesOut Entry.is
  split
  · next h =>
    simp only [Bool.and_eq_true, decide_eq_true_eq] at h
    simp [Entry.abort, h]
  · rfl

theorem keptEntries_onDataTimeout :
    keptEntries (Entry.onDataTimeout tag) l = l.filter (fun e => !e.timesOut tag) := by
  induction l with
  | nil => rfl
  | cons e rest ih => cases h : e.timesOut tag <;> simp [keptEntries, Entry.onDataTimeout_eq, h, ih]

theorem answers_onDataTimeout : answers (Entry.onDataTimeout tag) l =
    (l.filter (fun e => e.timesOut tag)).map (fun e => .wrAbort tag .dataTimeout (some e.generation)) := by
  induction l with
  | nil => rfl
  | cons e rest ih => cases h : e.timesOut tag <;> simp [answers, Entry.onDataTimeout_eq, h, ih]

end

/-- Settles O18: the half stored in its write, the malformed packet counted, and the fates at a timer's expiry. -/
theorem writeDataStored : Obligations.WriteDataStored := by
  intro s p
  refine ⟨fun pkt l1 l2 e hears ok tracker kind tag state others => ?stored, fun pkt hears bad => ?malformed,
    fun tag running => ?expiry⟩
  case stored =>
    have named : (e.is .write (packetTag pkt) && e.counted) = true := by
      simp [Entry.is, Entry.counted, kind, tag, state]
    have alone : ∀ x ∈ l1 ++ l2, (x.is .write (packetTag pkt) && x.counted) = false := fun x hx => by
      simpa [Entry.is, Entry.counted] using others x hx
    rw [exec_wdata_taken hears ok]
    refine ⟨fun half empty => ?_, fun half empty => ?_⟩
    · rw [State.takeData_stored _ tracker named alone (by simp [Entry.wantsHalf, state, half, empty]), half,
        Entry.takeHalf_zero]
    · rw [State.takeData_stored _ tracker named alone (by simp [Entry.wantsHalf, state, half, empty]), half,
        Entry.takeHalf_one]
  case malformed =>
    rw [exec_wdata_malformed hears (wdataFieldsOk_eq_false bad), readableTag, List.head?_eq_getElem?]
    rfl
  case expiry =>
    show execWriteDataTimerExpiry p tag s = _
    rw [execWriteDataTimerExpiry, State.whenRunning_running running, State.applyFates, keptEntries_onDataTimeout,
      answers_onDataTimeout]
    rfl

/-- Settles O19: a write out of WAIT_DATA wants no half, nor one that has the half already. -/
theorem orphanDataDropped : Obligations.OrphanDataDropped := by
  intro s p pkt hears ok unwanted
  rw [exec_wdata_taken hears ok, State.takeData_orphan]
  · rfl
  · intro e mem kind tag
    obtain state | ⟨zero, stored⟩ | ⟨one, stored⟩ := unwanted e mem kind tag
    · simp [Entry.wantsHalf, state]
    · simp [Entry.wantsHalf, zero, Option.isNone_eq_false_iff, Option.isSome_iff_ne_none, stored]
    · simp [Entry.wantsHalf, one, Option.isNone_eq_false_iff, Option.isSome_iff_ne_none, stored]

end Sys2Proof.Machine
end

section
/-! SUPPORT. The scan of an arbiter (R100), the candidate it grants (R77), and the places that an admission takes (R78,
R96). -/

namespace Sys2Proof.Machine

/-! ## The scan (R100) -/

theorem getElem_scanOrder (last : Position) (i : Nat) (h : i < (scanOrder last).length) :
    (scanOrder last)[i] = last + Fin.ofNat 5 (i + 1) := by
  have cyclic : ∀ (last : Position) (i : Fin 5),
      (scanOrder last)[i.val]'i.isLt = last + Fin.ofNat 5 (i.val + 1) := by decide
  exact cyclic last ⟨i, h⟩

/-- A position that the scan passes before its winner is not eligible. -/
theorem State.nextGrant_passes {s : State} {c : ChannelId} {pos : Position} (h : s.nextGrant c = some pos) {k : Nat}
    (low : 0 < k) (before : ∀ j : Nat, 0 < j → j ≤ k → (s.channel c).lastWinner + Fin.ofNat 5 j ≠ pos) :
    s.eligibleAt c ((s.channel c).lastWinner + Fin.ofNat 5 k) = false := by
  obtain ⟨-, i, hi, winner, passed⟩ := List.find?_eq_some_iff_getElem.mp h
  have late : k ≤ i := Nat.le_of_not_lt fun early =>
    before (i + 1) (Nat.succ_pos i) early (by rw [← getElem_scanOrder _ i hi]; exact winner)
  have ineligible := passed (k - 1) (by omega)
  rw [getElem_scanOrder, Nat.sub_add_cancel low] at ineligible
  simpa using ineligible

theorem positionPort_castSucc (p : PortId) : positionPort p.castSucc = some p := by simp [positionPort]

/-! ## The candidate (R77) -/

/-- The channel at whose arbiter an entry stands: its target's, a DUAL entry's source. -/
def Resolution.arbiter : Resolution → ChannelId
  | .source t => t.channel
  | .dest t => t.channel
  | .dual src _ => src.channel

theorem trackerCandidate_arbiter {l : List Entry} {c : ChannelId} {e : Entry} (h : trackerCandidate l c = some e) :
    e.resolution.arbiter = c := by
  unfold trackerCandidate at h
  split at h
  · cases h
  next head isHead =>
  have on : head.resolution.on c = true := by
    have := (List.mem_filter.mp (List.mem_of_head? isHead)).2
    simp only [Bool.and_eq_true] at this
    exact this.2
  split at h
  · split at h
    · next t r =>
      obtain rfl := Option.some.inj h
      simpa [r, Resolution.on, Resolution.arbiter] using on
    · next t r =>
      obtain rfl := Option.some.inj h
      simpa [r, Resolution.on, Resolution.arbiter] using on
    · next src dst r =>
      split at h
      · next heads =>
        obtain rfl := Option.some.inj h
        simpa [r, Resolution.arbiter] using heads.1
      · cases h
  · cases h

/-! ## Places (R96) -/

theorem Channel.reservedUsed_append (x : Channel) (op : Operation) (pos : Position) :
    { x with queue := x.queue ++ [op] }.reservedUsed pos =
      x.reservedUsed pos + if positionOf op.origin = pos ∧ op.slot = .reserved then 1 else 0 := by
  simp only [Channel.reservedUsed, List.filter_append, List.length_append]
  by_cases h : positionOf op.origin = pos ∧ op.slot = .reserved <;> simp [h]

section
variable (x : Channel) (action : OpAction) (line : Nat) (origin : Origin) (part : Option Part)

/-- An operation put in the queue takes a reserved place of its origin while one is free. -/
theorem Channel.reservedUsed_enqueue : (x.enqueue action line origin part).reservedUsed (positionOf origin) =
    x.reservedUsed (positionOf origin) + if x.reservedUsed (positionOf origin) < 4 then 1 else 0 := by
  rw [Channel.enqueue, Channel.reservedUsed_append]
  simp [Channel.slotFor]

/-- The place of the second of two operations of one origin. -/
theorem Channel.slotFor_enqueue : (x.enqueue action line origin part).slotFor (positionOf origin) =
    if x.reservedUsed (positionOf origin) < 3 then .reserved else .shared := by
  unfold Channel.slotFor
  rw [Channel.reservedUsed_enqueue]
  congr 1
  simp only [Config.reservedPlaces, eq_iff_iff]
  split <;> omega

end

section
variable (s : State) (c d : ChannelId) (action : OpAction) (line : Nat) (origin : Origin) (part : Option Part)

@[simp] theorem State.enqueue_channel : (s.enqueue c action line origin part).channel d =
    if d = c then (s.channel c).enqueue action line origin part else s.channel d := State.setChannel_channel s c _ d

@[simp] theorem State.setWinner_channel (pos : Position) : (s.setWinner c pos).channel d =
    if d = c then { s.channel c with lastWinner := pos } else s.channel d := State.setChannel_channel s c _ d

/-- Enqueueing touches the queue alone. -/
theorem State.enqueue_channel_frame : (s.enqueue c action line origin part).channel d =
    { s.channel d with queue := ((s.enqueue c action line origin part).channel d).queue } := by
  rw [State.enqueue_channel]
  split
  · next same => rw [same]; rfl
  · rfl

end

/-! ## Admission (R78) -/

section
variable (s : State) (p : PortId) (e : Entry) (d : ChannelId)

theorem State.enqueueEntry_single {t : Target} (h : e.resolution = .source t ∨ e.resolution = .dest t) :
    s.enqueueEntry p e = s.enqueue t.channel e.action t.line (.port p e.opTag) none := by
  obtain h | h := h <;> simp only [State.enqueueEntry, h]

theorem State.enqueueEntry_dual {a b : Target} (h : e.resolution = .dual a b) : s.enqueueEntry p e =
    (s.enqueue a.channel e.action a.line (.port p e.opTag) (some .source)).enqueue
      b.channel e.action b.line (.port p e.opTag) (some .destination) := by
  simp only [State.enqueueEntry, h]

theorem State.enqueueEntry_frame : s.enqueueEntry p e = { s with channels := (s.enqueueEntry p e).channels } := by
  cases h : e.resolution <;> simp only [State.enqueueEntry, h] <;> rfl

theorem State.enqueueEntry_channel_frame : (s.enqueueEntry p e).channel d =
    { s.channel d with queue := ((s.enqueueEntry p e).channel d).queue } := by
  cases h : e.resolution with
  | source t => rw [State.enqueueEntry_single s p e (.inl h)]; exact State.enqueue_channel_frame ..
  | dest t => rw [State.enqueueEntry_single s p e (.inr h)]; exact State.enqueue_channel_frame ..
  | dual a b =>
    rw [State.enqueueEntry_dual s p e h, State.enqueue_channel_frame, State.enqueue_channel_frame s]

/-- What an entry puts in the queues does not depend on the trackers. -/
theorem State.enqueueEntry_setTracker (q : PortId) (l : List Entry) :
    ((s.setTracker q l).enqueueEntry p e).channel d = (s.enqueueEntry p e).channel d := by
  cases h : e.resolution <;> simp only [State.enqueueEntry, h] <;> rfl

variable (c : ChannelId)

theorem State.admitEntry_frame : s.admitEntry c p e =
    { s with trackers := (s.admitEntry c p e).trackers, channels := (s.admitEntry c p e).channels } := by
  unfold State.admitEntry
  rw [State.enqueueEntry_frame]
  rfl

/-- The granted entry, and it alone, is AT_CHANNEL. -/
theorem State.admitEntry_tracker (q : PortId) : (s.admitEntry c p e).tracker q =
    if q = p then (s.tracker p).map (fun x => if x.kind = e.kind ∧ x.opTag = e.opTag ∧ x.state ≠ .retiring then
      { x with state := .atChannel, timer := none, sourcePart := none, destPart := false } else x)
    else s.tracker q := by
  unfold State.admitEntry
  rw [State.enqueueEntry_frame]
  refine (State.setTracker_tracker s p _ q).trans ?_
  simp [updateEntry, Entry.is, Entry.counted, and_assoc]

/-- A channel after an admission: the entry's operations in its queue, and at the arbiter the port as last winner. -/
theorem State.admitEntry_channel : (s.admitEntry c p e).channel d =
    { (s.enqueueEntry p e).channel d with
      lastWinner := if d = c then p.castSucc else (s.channel d).lastWinner } := by
  rw [State.admitEntry, State.setWinner_channel, State.enqueueEntry_setTracker, State.enqueueEntry_setTracker]
  split
  · next same => rw [same]
  · rw [State.enqueueEntry_channel_frame]

end

/-- ADMISSION of the tracker candidate that the arbiter grants. -/
theorem exec_admission_grants {s : State} {c : ChannelId} {p : PortId} {e : Entry} (running : s.power = .running)
    (grant : s.nextGrant c = some p.castSucc) (candidate : trackerCandidate (s.tracker p) c = some e) :
    exec (.admission c) s = .next (s.admitEntry c p e) := by
  show execAdmission c s = _
  simp [execAdmission, State.whenRunning_running running, grant, positionPort_castSucc, candidate]

/-- Settles O25: the scan up to its winner, and the queues after the grant by the form of the entry's resolution. -/
theorem admissionGrants : Obligations.AdmissionGrants := by
  intro s c running
  refine ⟨fun pos grant => ⟨List.find?_some grant, fun k low _ => State.nextGrant_passes grant low⟩,
    fun p e grant candidate => ⟨_, exec_admission_grants running grant candidate, s.admitEntry_frame p e c, ?_, ?_, ?_,
      ?_, fun t h => ?single, fun a b h => ?dual⟩⟩
  · rw [State.admitEntry_tracker, if_pos rfl]
  · intro q other
    rw [State.admitEntry_tracker, if_neg other]
  · rw [State.admitEntry_channel, if_pos rfl]
  · intro d
    rw [State.admitEntry_channel, State.enqueueEntry_channel_frame]
  case single =>
    have here : t.channel = c := by
      have := trackerCandidate_arbiter candidate
      obtain h | h := h <;> rwa [h] at this
    refine ⟨here, ?_, fun d other => ?_⟩
    · rw [State.admitEntry_channel, State.enqueueEntry_single s p e h, here, State.enqueue_channel, if_pos rfl]
      rfl
    · rw [State.admitEntry_channel, State.enqueueEntry_single s p e h, here, State.enqueue_channel, if_neg other,
        if_neg other]
  case dual =>
    have here : a.channel = c := by
      have := trackerCandidate_arbiter candidate
      rwa [h] at this
    refine ⟨here, fun apart => ⟨?_, ?_⟩, fun together => ?_⟩
    · rw [State.admitEntry_channel, State.enqueueEntry_dual s p e h, here, State.enqueue_channel,
        if_neg (Ne.symm apart), State.enqueue_channel, if_pos rfl]
      rfl
    · rw [State.admitEntry_channel, State.enqueueEntry_dual s p e h, here, State.enqueue_channel, if_pos rfl,
        State.enqueue_channel, if_neg apart]
      rfl
    · rw [State.admitEntry_channel, State.enqueueEntry_dual s p e h, here, together, State.enqueue_channel, if_pos rfl,
        State.enqueue_channel, if_pos rfl]
      have second := (s.channel c).slotFor_enqueue e.action a.line (.port p e.opTag) (some .source)
      simp only [Channel.enqueue] at second ⊢
      rw [second, List.append_assoc]
      rfl

end Sys2Proof.Machine
end

section
/-! SUPPORT. The completion of a READ and of a write's part: what leaves the queue, what its line holds, what the
channel counts, and what becomes of the entry (R80, R82, R102 to R104, R110, R111). -/

namespace Sys2Proof.Machine

/-! ## What a channel counts (R102, R110, R111) -/

/-- A channel after a read with an ECC outcome: CORRECTED counted, UNCORRECTABLE noted as the error given. -/
def Channel.afterOutcome (x : Channel) (e : EccOutcome) (error : FirstError) : Channel :=
  match e with
  | .corrected => x.countCorrected
  | .uncorrectable => x.recordError error
  | _ => x

@[simp] theorem State.setChannel_self (s : State) (c : ChannelId) : s.setChannel c (s.channel c) = s := by
  simp [State.setChannel, State.channel]

@[simp] theorem State.setChannel_setChannel (s : State) (c : ChannelId) (x y : Channel) :
    (s.setChannel c x).setChannel c y = s.setChannel c y := by simp [State.setChannel]

theorem State.countOutcome_eq (s : State) (c : ChannelId) (e : EccOutcome) (line : Nat) (origin : Position) :
    s.countOutcome c e line origin = s.setChannel c ((s.channel c).afterOutcome e
      (.uncorrectable line (s.layout.segmentOfLine c line) origin)) := by
  cases e with
  | clean => exact (s.setChannel_self c).symm
  | poisoned => exact (s.setChannel_self c).symm
  | corrected => rfl
  | uncorrectable => rfl

/-- An error noted touches the error record and the further errors alone. -/
theorem Channel.recordError_frame (x : Channel) (error : FirstError) : x.recordError error =
    { x with
      firstError := (x.recordError error).firstError
      furtherErrors := (x.recordError error).furtherErrors } := by
  unfold Channel.recordError
  split <;> rfl

theorem Channel.afterOutcome_frame (x : Channel) (e : EccOutcome) (error : FirstError) : x.afterOutcome e error =
    { x with
      firstError := (x.afterOutcome e error).firstError
      furtherErrors := (x.afterOutcome e error).furtherErrors
      correctable := (x.afterOutcome e error).correctable } := by
  cases e with
  | uncorrectable => simp only [Channel.afterOutcome]; rw [Channel.recordError_frame]
  | _ => rfl

/-! ## An operation that leaves its queue (R106) -/

/-- The state after an operation on a line was performed: the queue without it, the contents it leaves, and what the
channel counts of its read. -/
def State.performed (s : State) (c : ChannelId) (queue : List Operation) (memory : Memory) (e : EccOutcome) (line : Nat)
    (origin : Position) : State :=
  s.setChannel c (({ s.channel c with queue := queue, memory := memory } : Channel).afterOutcome e
    (.uncorrectable line (s.layout.segmentOfLine c line) origin))

section
variable (s : State) (c : ChannelId) (queue : List Operation) (memory : Memory) (e : EccOutcome) (line : Nat)
  (origin : Position)

theorem State.performed_channel_ne {d : ChannelId} (h : d ≠ c) :
    (s.performed c queue memory e line origin).channel d = s.channel d := State.setChannel_channel_ne s c _ d h

/-- The channel of the operation keeps its state, its modules and its last winner. -/
theorem State.performed_channel : ∃ first further correctable,
    (s.performed c queue memory e line origin).channel c = { s.channel c with
      queue := queue, memory := memory, firstError := first, furtherErrors := further, correctable := correctable } :=
  ⟨_, _, _, (State.setChannel_channel_self s c _).trans (Channel.afterOutcome_frame _ e _)⟩

theorem State.performed_correctable : ((s.performed c queue memory e line origin).channel c).correctable =
    if e = .corrected then satIncr 65535 (s.channel c).correctable else (s.channel c).correctable := by
  rw [State.performed, State.setChannel_channel_self]
  cases e with
  | uncorrectable => simp only [Channel.afterOutcome]; rw [Channel.recordError_frame]; rfl
  | _ => rfl

/-- An UNCORRECTABLE outcome is noted with its line and its origin (R110). -/
theorem State.performed_notesError {t : State}
    (h : t.channel c = (s.performed c queue memory .uncorrectable line origin).channel c) :
    s.notesError t c line origin := by
  rw [State.performed, State.setChannel_channel_self] at h
  unfold State.notesError
  rw [h]
  cases first : (s.channel c).firstError <;> simp [Channel.afterOutcome, Channel.recordError, first]

variable {e} in
/-- Every other outcome leaves the error record as it was. -/
theorem State.performed_sameErrors (ne : e ≠ .uncorrectable) {t : State}
    (h : t.channel c = (s.performed c queue memory e line origin).channel c) : s.sameErrors t c := by
  rw [State.performed, State.setChannel_channel_self] at h
  unfold State.sameErrors
  rw [h]
  cases e with
  | uncorrectable => exact absurd rfl ne
  | _ => exact ⟨rfl, rfl⟩

end

/-! ## Lines (R102 to R104) -/

theorem eccOutcome_poison (media : MediaResult) : eccOutcome .poison media = .poisoned := by cases media <;> rfl

theorem eccOutcome_uncorrectable {content : LineContent} (h : content ≠ .poison) :
    eccOutcome content .uncorrectable = .uncorrectable := by
  cases content with
  | poison => exact absurd rfl h
  | data d => rfl
  | undefined => rfl

/-- A WRITE_PARTIAL ends LINE_POISONED on a line that it finds bad (R104). -/
theorem partialStatus_eccOutcome (content : LineContent) (media : MediaResult) :
    partialStatus (eccOutcome content media) =
      if content = .poison ∨ media = .uncorrectable then .linePoisoned else .done := by
  cases content with
  | poison => rw [eccOutcome_poison]; simp [partialStatus]
  | data d => cases media <;> rfl
  | undefined => cases media <;> rfl

section
variable {m : Memory} (w : m.wf = true) (line : Nat)
include w

theorem Memory.read_afterRead (other : Nat) (e : EccOutcome) :
    (m.afterRead line e).read other = if other = line ∧ e = .uncorrectable then .poison else m.read other := by
  cases e with
  | uncorrectable => simp [Memory.afterRead, Memory.read_write w]
  | _ => simp [Memory.afterRead]

/-- A write changes its own line alone. -/
theorem Memory.read_performWrite_ne {other : Nat} (h : other ≠ line) (media : MediaResult) (action : OpAction) :
    (m.performWrite line media action).1.read other = m.read other := by
  cases action with
  | writeFull d => exact Memory.read_write_ne w h _
  | writePartial mask d =>
    simp only [Memory.performWrite]
    cases eccOutcome (m.read line) media <;> exact Memory.read_write_ne w h _
  | _ => rfl

/-- A WRITE_FULL writes its bytes whatever the line held (R103). -/
theorem Memory.read_performWrite_full (media : MediaResult) (d : LineData) :
    (m.performWrite line media (.writeFull d)).1.read line = .data d := Memory.read_write_self w line _

/-- A WRITE_PARTIAL on a line that it finds bad leaves the poison marker (R104). -/
theorem Memory.read_performWrite_bad (mask : ByteMask) (d : LineData) {media : MediaResult}
    (bad : m.read line = .poison ∨ media = .uncorrectable) :
    (m.performWrite line media (.writePartial mask d)).1.read line = .poison := by
  have outcome : eccOutcome (m.read line) media = .poisoned ∨ eccOutcome (m.read line) media = .uncorrectable := by
    by_cases poison : m.read line = .poison
    · exact .inl (by rw [poison, eccOutcome_poison])
    · obtain rfl := bad.resolve_left poison
      exact .inr (eccOutcome_uncorrectable poison)
  simp only [Memory.performWrite]
  obtain outcome | outcome := outcome <;> rw [outcome] <;> exact Memory.read_write_self w line _

/-- A WRITE_PARTIAL on good data merges byte by byte (R104). -/
theorem Memory.read_performWrite_good (mask : ByteMask) {d old : LineData} (content : m.read line = .data old)
    {media : MediaResult} (good : media ≠ .uncorrectable) :
    ∃ new, (m.performWrite line media (.writePartial mask d)).1.read line = .data new ∧ mergedBytes mask d old new := by
  refine ⟨mergeLine mask d old, ?_, mergeLine_byte mask d old⟩
  simp only [Memory.performWrite, content]
  cases media with
  | uncorrectable => exact absurd rfl good
  | clean => simp only [eccOutcome, Memory.afterPartial, content, contentData]; exact Memory.read_write_self w line _
  | correctable =>
    simp only [eccOutcome, Memory.afterPartial, content, contentData]; exact Memory.read_write_self w line _

end

/-! ## Entries that may complete -/

section
variable {s : State} {p : PortId} {e : Entry} (h : s.completes p e)
include h

theorem State.completes.running : s.power = .running := by
  obtain ⟨-, running, -⟩ | ⟨-, running⟩ := h <;> exact running

theorem State.completes.not_waiting : e.waiting = false := by
  obtain ⟨state, -⟩ | ⟨state, -⟩ := h <;> simp [Entry.waiting, state]

theorem State.completes.answerable : e.state = .retiring ∨ (s.port p).state.linked = true :=
  h.symm.imp (fun k => k.1) (fun k => State.linked_of_hears k.2)

end

/-! ## What a fate leaves alone -/

section
variable (s : State) (p : PortId) (f : Entry → Fate)

theorem State.applyFates_eq : s.applyFates p f =
    { s with ports := (s.applyFates p f).ports, trackers := (s.applyFates p f).trackers } := by
  obtain ⟨ports, h, -⟩ := s.applyFates_frame p f
  rw [h]
  rfl

theorem State.applyFates_channel (d : ChannelId) : (s.applyFates p f).channel d = s.channel d := by
  rw [State.applyFates_eq]
  rfl

theorem State.applyFates_port_ne {q : PortId} (h : q ≠ p) : (s.applyFates p f).port q = s.port q := by
  unfold State.applyFates State.sendAll
  split
  · rw [State.setPort_port_ne _ _ _ _ h]; rfl
  · rfl

end

/-- An event that changes one entry alone and answers none. -/
theorem State.applyFates_one_kept {s : State} {p : PortId} {f : Entry → Fate} {l1 l2 : List Entry} {e e' : Entry}
    (tracker : s.tracker p = l1 ++ e :: l2) (h : f e = .keep e') (others : ∀ x ∈ l1 ++ l2, f x = .keep x) :
    s.applyFates p f = s.setTracker p (l1 ++ e' :: l2) := by
  have before : ∀ x ∈ l1, f x = .keep x := fun x hx => others x (List.mem_append_left _ hx)
  have behind : ∀ x ∈ l2, f x = .keep x := fun x hx => others x (List.mem_append_right _ hx)
  have silent : answers f (l1 ++ e :: l2) = [] := by
    rw [answers_append, answers_cons_keep h, answers_nil fun x hx pkt => by simp [before x hx],
      answers_nil fun x hx pkt => by simp [behind x hx]]
    rfl
  rw [State.applyFates, tracker, silent, State.sendAll_nil, keptEntries_append, keptEntries_cons_keep h,
    keptEntries_id before, keptEntries_id behind]

/-! ## READ_COMPLETE (R80) -/

/-- READ_COMPLETE of the first READ of its tag, with no earlier operation on its line. -/
theorem exec_readComplete {s : State} {c : ChannelId} {p : PortId} {tag : Byte} {media : MediaResult}
    {q1 q2 : List Operation} {op : Operation} {outcome : EccOutcome} (running : s.power = .running)
    (online : (s.channel c).state = .online) (queue : (s.channel c).queue = q1 ++ op :: q2)
    (named : op.isRead p tag = true) (first : ∀ o ∈ q1, o.isRead p tag = false) (clear : ∀ o ∈ q1, o.line ≠ op.line)
    (ecc : eccOutcome ((s.channel c).memory.read op.line) media = outcome) :
    exec (.readComplete c p tag media) s = .next
      ((s.performed c (q1 ++ q2) ((s.channel c).memory.afterRead op.line outcome) outcome op.line
        p.castSucc).applyFates p
          (Entry.onReadDone tag outcome (contentData op.line ((s.channel c).memory.read op.line)))) := by
  have supplied : op.action ≠ .copyWrite none := fun k => by simp [Operation.isRead, k] at named
  show execReadComplete c p tag media s = _
  simp only [execReadComplete, State.whenRunning_running running,
    Channel.completable_split online queue named first clear supplied, Channel.remove_split queue named first,
    State.countOutcome_eq, State.setChannel_channel_self, State.setChannel_setChannel, ecc]
  rfl

theorem Operation.isRead_iff (p : PortId) (tag : Byte) (o : Operation) :
    o.isRead p tag = true ↔ o.origin = .port p tag ∧ o.action = .read := by simp [Operation.isRead]

section
variable {s : State} {p : PortId} {tag : Byte} {e : Entry} (outcome : EccOutcome) (data : LineData)

theorem Entry.onReadDone_named (completes : s.completes p e) (kind : e.kind = .read) (named : e.opTag = tag) :
    e.onReadDone tag outcome data = e.leaveWith (e.returned outcome data) := by
  simp [Entry.onReadDone, Entry.is, kind, named, completes.not_waiting]

theorem Entry.onReadDone_other (other : e.kind = .read → e.opTag ≠ tag) :
    e.onReadDone tag outcome data = .keep e := by
  have : e.is .read tag = false := by simpa [Entry.is] using other
  simp [Entry.onReadDone, this]

end

/-- Settles O27: the operation leaves its queue, the entry its tracker, and the ECC outcome decides the answer, the line
and what is noted. -/
theorem readCompletes : Obligations.ReadCompletes := by
  intro s c p tag media q1 q2 op l1 l2 e law online queue origin action clear first tracker kind named completes others
  obtain ⟨outcome, ecc⟩ : ∃ outcome, eccOutcome ((s.channel c).memory.read op.line) media = outcome := ⟨_, rfl⟩
  have run := exec_readComplete completes.running online queue ((op.isRead_iff p tag).mpr ⟨origin, action⟩)
    (fun o ho => Bool.eq_false_iff.mpr fun k => first o ho ((o.isRead_iff p tag).mp k)) clear ecc
  rw [State.applyFates_one_left (s := s.performed ..) tracker (Entry.onReadDone_named outcome _ completes kind named)
    (fun x hx => Entry.onReadDone_other outcome _ (others x hx)) completes.answerable] at run
  refine ⟨_, _, run, rfl, ?_⟩
  simp only [State.setPort_tracker, State.setTracker_tracker_self, State.setPort_channel, State.setTracker_channel]
  obtain ⟨_, _, _, here⟩ := s.performed_channel c (q1 ++ q2) ((s.channel c).memory.afterRead op.line outcome) outcome
    op.line p.castSucc
  have line := fun other => (congrArg (fun x => x.memory.read other) here).trans
    (Memory.read_afterRead (law c) op.line other outcome)
  have kept := fun ne : outcome ≠ .uncorrectable => (line op.line).trans (if_neg fun k => ne k.2)
  have correctable := s.performed_correctable c (q1 ++ q2) ((s.channel c).memory.afterRead op.line outcome) outcome
    op.line p.castSucc
  have quiet : outcome ≠ .uncorrectable → s.sameErrors _ c := fun ne =>
    State.performed_sameErrors s c (q1 ++ q2) ((s.channel c).memory.afterRead op.line outcome) op.line p.castSucc ne rfl
  refine ⟨trivial, fun q other => State.setTracker_tracker_ne _ p _ q other,
    fun d other => State.performed_channel_ne _ _ _ _ _ _ _ other, by rw [here], by rw [here]; exact online,
    by rw [here], fun other ne => (line other).trans (if_neg fun k => ne k.1), fun d content => ⟨?clean, ?corrected⟩,
    ?uncorrectable, ?poisoned⟩
  case clean =>
    rintro rfl
    obtain rfl : .clean = outcome := by rw [← ecc, content]; rfl
    exact ⟨by simp [Entry.returned, named, content, contentData], (kept nofun).trans content, correctable,
      (quiet nofun).1⟩
  case corrected =>
    rintro rfl
    obtain rfl : .corrected = outcome := by rw [← ecc, content]; rfl
    exact ⟨by simp [Entry.returned, named, content, contentData], (kept nofun).trans content, correctable,
      (quiet nofun).1⟩
  case uncorrectable =>
    rintro readable rfl
    obtain rfl : .uncorrectable = outcome := by rw [← ecc, eccOutcome_uncorrectable readable]
    exact ⟨by simp [Entry.returned, named], (line _).trans (if_pos ⟨rfl, rfl⟩),
      State.performed_notesError s c (q1 ++ q2) _ op.line p.castSucc rfl⟩
  case poisoned =>
    intro content
    obtain rfl : .poisoned = outcome := by rw [← ecc, content, eccOutcome_poison]
    exact ⟨by simp [Entry.returned, named], (kept nofun).trans content, quiet nofun⟩

/-! ## WRITE_COMPLETE (R81, R82) -/

section
variable {s : State} {c : ChannelId} {p : PortId} {tag : Byte} {part : Option Part} {media : MediaResult}
  {q1 q2 : List Operation} {op : Operation}

/-- WRITE_COMPLETE of the first write of its tag and part, with no earlier operation on its line. -/
theorem exec_writeComplete {memory : Memory} {outcome : EccOutcome} {st : WriteStatus} (running : s.power = .running)
    (online : (s.channel c).state = .online) (queue : (s.channel c).queue = q1 ++ op :: q2)
    (named : op.isWrite p tag part = true) (first : ∀ o ∈ q1, o.isWrite p tag part = false)
    (clear : ∀ o ∈ q1, o.line ≠ op.line)
    (written : (s.channel c).memory.performWrite op.line media op.action = (memory, outcome, st)) :
    exec (.writeComplete c p tag part media) s = .next
      ((s.performed c (q1 ++ q2) memory outcome op.line p.castSucc).applyFates p (Entry.onWriteDone tag part st)) := by
  have supplied : op.action ≠ .copyWrite none := fun k => by simp [Operation.isWrite, k] at named
  show execWriteComplete c p tag part media s = _
  simp only [execWriteComplete, State.whenRunning_running running,
    Channel.completable_split online queue named first clear supplied, Channel.remove_split queue named first,
    State.countOutcome_eq, State.setChannel_channel_self, State.setChannel_setChannel, written]
  rfl

end

theorem Operation.isWrite_of_action {p : PortId} {tag : Byte} {part : Option Part} {o : Operation}
    (origin : o.origin = .port p tag) (hpart : o.part = part)
    (action : (∃ d, o.action = .writeFull d) ∨ ∃ mask d, o.action = .writePartial mask d) :
    o.isWrite p tag part = true := by
  obtain ⟨d, action⟩ | ⟨mask, d, action⟩ := action <;> simp [Operation.isWrite, origin, hpart, action]

theorem Operation.isWrite_eq_false {p : PortId} {tag : Byte} {part : Option Part} {o : Operation}
    (h : ¬ (o.origin = .port p tag ∧ o.part = part)) : o.isWrite p tag part = false := by
  have : (decide (o.origin = .port p tag) && decide (o.part = part)) = false := by simpa using h
  simp [Operation.isWrite, this]

section
variable {s : State} {p : PortId} {tag : Byte} {e : Entry} (st : WriteStatus)

section
variable (completes : s.completes p e) (kind : e.kind = .write) (named : e.opTag = tag)
include completes kind named

theorem Entry.onWriteDone_source :
    e.onWriteDone tag (some .source) st = Entry.dualFate { e with sourcePart := some st.partOutcome } := by
  simp [Entry.onWriteDone, Entry.is, kind, named, completes.not_waiting]

theorem Entry.onWriteDone_destination :
    e.onWriteDone tag (some .destination) st = Entry.dualFate { e with destPart := true } := by
  simp [Entry.onWriteDone, Entry.is, kind, named, completes.not_waiting]

end

theorem Entry.onWriteDone_other (other : e.kind = .write → e.opTag ≠ tag) (part : Option Part) :
    e.onWriteDone tag part st = .keep e := by
  have : e.is .write tag = false := by simpa [Entry.is] using other
  simp [Entry.onWriteDone, this]

end

/-! ## The parts of a DUAL entry (R82) -/

theorem Entry.dualFate_undone {e : Entry} (h : e.sourcePart = none ∨ e.destPart = false) : e.dualFate = .keep e := by
  obtain h | h := h <;> simp [Entry.dualFate, h]

/-- The response that the source part's outcome gives. -/
def Entry.dualAnswer (e : Entry) : PartOutcome → OutPacket
  | .done => .wrAck e.opTag .done e.generation
  | .linePoisoned => .wrAck e.opTag .linePoisoned e.generation
  | .aborted => .wrAbort e.opTag .channelDown (some e.generation)

theorem Entry.dualFate_done {e : Entry} {o : PartOutcome} (source : e.sourcePart = some o) (dest : e.destPart = true) :
    e.dualFate = e.leaveWith (e.dualAnswer o) := by
  have : e.dualResponse = e.dualAnswer o := by cases o <;> simp only [Entry.dualResponse, source] <;> rfl
  simp [Entry.dualFate, source, dest, Entry.leaveWith, this]

theorem WriteStatus.partOutcome_eq (st : WriteStatus) :
    st.partOutcome = if st = .done then .done else .linePoisoned := by cases st <;> rfl

theorem Entry.dualAnswer_partOutcome (e : Entry) (st : WriteStatus) :
    e.dualAnswer st.partOutcome = .wrAck e.opTag st e.generation := by cases st <;> rfl

section
variable {e : Entry} {c : ChannelId} {src dst : Target} (state : e.state = .atChannel)
  (dual : e.resolution = .dual src dst)
include state dual

/-- The abort of a DUAL entry's operations on a channel: a source part not yet done there is ABORTED, and a destination
part there is done (R107). -/
theorem Entry.onOperationAbort_dual : e.onOperationAbort c = Entry.dualFate
    { e with
      sourcePart := e.sourcePart.or (if src.channel = c then some .aborted else none)
      destPart := e.destPart || decide (dst.channel = c) } := by
  have moved : e.waiting = false := by simp [Entry.waiting, state]
  cases source : e.sourcePart <;> simp [Entry.onOperationAbort, moved, dual, source]

end


/-- A write's outcome: a WRITE_FULL ends DONE, a WRITE_PARTIAL as it finds its line (R103, R104). -/
theorem Memory.performWrite_status (m : Memory) (line : Nat) (media : MediaResult) {action : OpAction}
    {st : WriteStatus} (h : (∃ d, action = .writeFull d ∧ st = .done) ∨ ∃ mask d, action = .writePartial mask d ∧
      st = if m.read line = .poison ∨ media = .uncorrectable then .linePoisoned else .done) :
    ∃ outcome, m.performWrite line media action = ((m.performWrite line media action).1, outcome, st) := by
  obtain ⟨d, rfl, rfl⟩ | ⟨mask, d, rfl, rfl⟩ := h
  · exact ⟨_, rfl⟩
  · exact ⟨_, by rw [← partialStatus_eccOutcome]; rfl⟩

/-- Settles O30: the four cases of a part's completion by the other part's outcome, and those of its abort. -/
theorem dualAnsweredBySourcePart : Obligations.DualAnsweredBySourcePart := by
  refine ⟨?completion, ?abort⟩
  case completion =>
    intro s c p tag media part q1 q2 op l1 l2 e st online queue origin hpart writes before tracker kind named completes
      others
    obtain ⟨outcome, written⟩ := (s.channel c).memory.performWrite_status op.line media writes
    have action : (∃ d, op.action = .writeFull d) ∨ ∃ mask d, op.action = .writePartial mask d :=
      writes.imp (fun ⟨d, h, _⟩ => ⟨d, h⟩) (fun ⟨mask, d, h, _⟩ => ⟨mask, d, h⟩)
    have run := exec_writeComplete completes.running online queue (Operation.isWrite_of_action origin hpart action)
      (fun o ho => Operation.isWrite_eq_false (before o ho).2) (fun o ho => (before o ho).1) written
    obtain ⟨_, _, _, here⟩ := s.performed_channel c (q1 ++ q2)
      ((s.channel c).memory.performWrite op.line media op.action).1 outcome op.line p.castSucc
    have away := fun d other => s.performed_channel_ne c (q1 ++ q2)
      ((s.channel c).memory.performWrite op.line media op.action).1 outcome op.line p.castSucc (d := d) other
    have keeps : ∀ x ∈ l1 ++ l2, x.onWriteDone tag (some part) st = .keep x := fun x hx =>
      Entry.onWriteDone_other st (others x hx) _
    refine ⟨_, run, by rw [State.applyFates_channel, here], by rw [State.applyFates_eq]; rfl,
      fun d other => (State.applyFates_channel ..).trans (away d other), fun q other =>
        ⟨(State.applyFates_tracker ..).trans (if_neg other), State.applyFates_port_ne _ p _ other⟩,
      ?sourceFirst, ?sourceLast, ?destFirst, ?destLast, fun law => ⟨fun line other => ?_, fun d full => ?_,
        fun mask d partially => ⟨fun bad => ?_, fun old content good => ?_⟩⟩⟩
    case sourceFirst =>
      rintro rfl dest
      have fate := (Entry.onWriteDone_source st completes kind named).trans (Entry.dualFate_undone (.inr dest))
      rw [WriteStatus.partOutcome_eq] at fate
      rw [State.applyFates_one_kept (s := s.performed ..) tracker fate keeps]
      exact ⟨rfl, State.setTracker_tracker_self ..⟩
    case sourceLast =>
      rintro rfl dest
      have fate := (Entry.onWriteDone_source st completes kind named).trans (Entry.dualFate_done rfl dest)
      rw [Entry.dualAnswer_partOutcome] at fate
      rw [State.applyFates_one_left (s := s.performed ..) tracker fate keeps completes.answerable]
      exact ⟨by simp, by rw [State.setPort_port_self, ← named]; rfl⟩
    case destFirst =>
      rintro rfl source
      have fate := (Entry.onWriteDone_destination st completes kind named).trans (Entry.dualFate_undone (.inl source))
      rw [State.applyFates_one_kept (s := s.performed ..) tracker fate keeps]
      exact ⟨rfl, State.setTracker_tracker_self ..⟩
    case destLast =>
      rintro o rfl source
      have fate := (Entry.onWriteDone_destination st completes kind named).trans (Entry.dualFate_done source rfl)
      rw [State.applyFates_one_left (s := s.performed ..) tracker fate keeps completes.answerable]
      refine ⟨by simp, ?_⟩
      rw [State.setPort_port_self, ← named]
      cases o <;> rfl
    all_goals rw [State.applyFates_channel, here]
    · exact Memory.read_performWrite_ne (law c) op.line other media op.action
    · rw [full]
      exact Memory.read_performWrite_full (law c) op.line media d
    · rw [partially]
      exact Memory.read_performWrite_bad (law c) op.line mask d bad
    · rw [partially]
      exact Memory.read_performWrite_good (law c) op.line mask content good
  case abort =>
    intro c e src dst kind state dual
    rw [Entry.onOperationAbort_dual state dual]
    have stays : e.state ≠ .retiring := by simp [state]
    refine ⟨fun atSrc source dest away => ?_, fun atSrc source done => ?_, fun away atDst source => ?_,
      fun o atDst source => ?_⟩
    · rw [Entry.dualFate_undone (.inr (by simp [dest, away]))]
      simp [source, atSrc, dest, away]
    · rw [Entry.dualFate_done (o := .aborted) (by simp [source, atSrc]) (by simpa using done)]
      simp [Entry.leaveWith, stays, Entry.dualAnswer]
    · rw [Entry.dualFate_undone (.inl (by simp [source, away]))]
      simp [source, away, atDst]
    · rw [Entry.dualFate_done (o := o) (by simp [source]) (by simp [atDst])]
      simp only [Entry.leaveWith, stays, if_false]
      cases o <;> rfl

end Sys2Proof.Machine
end

section
/-! SUPPORT. The grant of the Copy Engine's candidate: the pair number, the relocation record, and the places that the
pair's operations take (R96, R148, R150). -/

namespace Sys2Proof.Machine

/-! ## The Copy Engine's candidate (R148, R150) -/

/-- The lowest pair number not in flight is the first that the search meets. -/
theorem freePairNumber_eq_some {pairs : List PairRecord} {n : PairNumber} (free : ∀ y ∈ pairs, y.number ≠ n)
    (taken : ∀ m : PairNumber, m < n → ∃ y ∈ pairs, y.number = m) : freePairNumber pairs = some n := by
  have rising : ([0, 1, 2, 3, 4, 5, 6, 7] : List PairNumber) = List.finRange 8 := by decide
  rw [freePairNumber, rising, List.find?_eq_some_iff_getElem]
  refine ⟨by simpa using free, n, by simp, by simp, fun m low => ?_⟩
  obtain ⟨y, inFlight, number⟩ := taken ⟨m, by omega⟩ low
  simpa using ⟨y, inFlight, number⟩

theorem positionPort_four : positionPort 4 = none := rfl

/-- The last position is the Copy Engine's (R98). -/
theorem State.eligibleAt_four {s : State} {x : CopyCandidate} (candidate : s.copyCandidate = some x) (c : ChannelId) :
    s.eligibleAt c 4 = s.copyEligible c x := by
  simp only [State.eligibleAt, positionPort_four, candidate]

/-- A candidate that an arbiter grants stands at that arbiter. -/
theorem State.copyCandidate_arbiter {s : State} {c : ChannelId} {x : CopyCandidate} (grant : s.nextGrant c = some 4)
    (candidate : s.copyCandidate = some x) : x.arbiter = c := by
  have eligible : s.eligibleAt c 4 = true := List.find?_some grant
  rw [State.eligibleAt_four candidate] at eligible
  simp only [State.copyEligible, Bool.and_eq_true, decide_eq_true_eq] at eligible
  obtain ⟨⟨stands, -⟩, -⟩ := eligible
  exact stands

/-- COPY_PAIR_ADMISSION of the candidate that the arbiter grants. -/
theorem exec_copyPairAdmission_grants {s : State} {c : ChannelId} {x : CopyCandidate} {n : PairNumber}
    (running : s.power = .running) (grant : s.nextGrant c = some 4) (candidate : s.copyCandidate = some x)
    (number : freePairNumber x.relocation.pairs = some n) : exec (.copyPairAdmission c) s = .next (s.admitPair c x n) := by
  show execCopyPairAdmission c s = _
  simp [execCopyPairAdmission, State.whenRunning_running running, grant, candidate, number]

/-! ## The grant (R150) -/

/-- Two operations of one origin put in one queue. -/
theorem Channel.queue_enqueue_enqueue (x : Channel) (a b : OpAction) (la lb : Nat) (origin : Origin)
    (pa pb : Option Part) : ((x.enqueue a la origin pa).enqueue b lb origin pb).queue = x.queue ++
      [{ action := a, line := la, origin := origin, part := pa,
         slot := if x.reservedUsed (positionOf origin) < 4 then .reserved else .shared },
       { action := b, line := lb, origin := origin, part := pb,
         slot := if x.reservedUsed (positionOf origin) < 3 then .reserved else .shared }] := by
  rw [Channel.enqueue, Channel.slotFor_enqueue, Channel.enqueue, List.append_assoc]
  rfl

/-- A winner is noted in its channel's arbiter alone. -/
theorem State.setWinner_channel_frame (s : State) (c d : ChannelId) (pos : Position) :
    (s.setWinner c pos).channel d =
      { s.channel d with lastWinner := if d = c then pos else (s.channel d).lastWinner } := by
  rw [State.setWinner_channel]
  split
  · next same => rw [same]
  · rfl

theorem State.setWinner_queue (s : State) (c d : ChannelId) (pos : Position) :
    ((s.setWinner c pos).channel d).queue = (s.channel d).queue := by rw [State.setWinner_channel_frame]

section
variable (s : State) (c : ChannelId) {x : CopyCandidate} (n : PairNumber)

theorem State.admitPair_pair (h : x.asPair = true) : s.admitPair c x n =
    ((({ s with copyEngine := .running (x.afterGrant n) } : State).enqueue x.src.channel .copyRead x.src.line (.copy n)
      none).enqueue x.dst.channel (.copyWrite none) x.dst.line (.copy n) none).setWinner c 4 := by
  simp only [State.admitPair, h, if_true]

theorem State.admitPair_poisonWrite (h : x.asPair = false) : s.admitPair c x n =
    (({ s with copyEngine := .running (x.afterGrant n) } : State).enqueue x.dst.channel (.copyWrite (some .poison))
      x.dst.line (.copy n) none).setWinner c 4 := by
  simp only [State.admitPair, h, Bool.false_eq_true, if_false]

theorem CopyCandidate.afterGrant_pair (h : x.asPair = true) : x.afterGrant n = { x.relocation with
    cursor := x.relocation.cursor + 1, pairs := x.relocation.pairs ++
      [{ number := n, line := x.relocation.cursor, form := .pair x.src .outstanding, dst := x.dst,
         writePart := .placeholder }] } := by
  simp [CopyCandidate.afterGrant, CopyCandidate.pairRecord, h]

theorem CopyCandidate.afterGrant_poisonWrite (h : x.asPair = false) : x.afterGrant n = { x.relocation with
    cursor := x.relocation.cursor + 1, poisonedLines := x.relocation.poisonedLines + 1, pairs := x.relocation.pairs ++
      [{ number := n, line := x.relocation.cursor, form := .poisonWrite, dst := x.dst, writePart := .supplied }] } := by
  simp [CopyCandidate.afterGrant, CopyCandidate.pairRecord, h]

theorem State.admitPair_copyEngine : (s.admitPair c x n).copyEngine = .running (x.afterGrant n) := by
  cases h : x.asPair with
  | true => rw [State.admitPair_pair s c n h]; rfl
  | false => rw [State.admitPair_poisonWrite s c n h]; rfl

theorem State.admitPair_frame : s.admitPair c x n =
    { s with channels := (s.admitPair c x n).channels, copyEngine := (s.admitPair c x n).copyEngine } := by
  cases h : x.asPair with
  | true => rw [State.admitPair_pair s c n h]; rfl
  | false => rw [State.admitPair_poisonWrite s c n h]; rfl

/-- A channel after the grant: operations put in its queue, and at the arbiter the Copy Engine as last winner. -/
theorem State.admitPair_channel_frame (d : ChannelId) : (s.admitPair c x n).channel d =
    { s.channel d with
      queue := ((s.admitPair c x n).channel d).queue, lastWinner := if d = c then 4 else (s.channel d).lastWinner } := by
  cases h : x.asPair with
  | true =>
    rw [State.admitPair_pair s c n h, State.setWinner_channel_frame, State.enqueue_channel_frame,
      State.enqueue_channel_frame]
    rfl
  | false =>
    rw [State.admitPair_poisonWrite s c n h, State.setWinner_channel_frame, State.enqueue_channel_frame]
    rfl

end

/-- Settles O26: the lowest free number is found, the candidate stands at the granting arbiter, and the queues of the two
forms follow from the operations enqueued. -/
theorem copyPairAdmitted : Obligations.CopyPairAdmitted := by
  intro s c r x n running grant engine candidate free taken
  obtain rfl : r = x.relocation := CopyEngine.running.inj (engine.symm.trans (State.copyCandidate_running candidate))
  have here := State.copyCandidate_arbiter grant candidate
  refine ⟨_, _, exec_copyPairAdmission_grants running grant candidate (freePairNumber_eq_some free taken),
    s.admitPair_copyEngine c n, s.admitPair_frame c n, s.admitPair_channel_frame c n, fun pair => ?pair, fun write => ?write⟩
  case pair =>
    have atSource : x.src.channel = c := by simpa [CopyCandidate.arbiter, pair] using here
    refine ⟨atSource, CopyCandidate.afterGrant_pair n pair, fun apart => ⟨?_, ?_⟩, fun together => ?_⟩
    all_goals rw [State.admitPair_pair s c n pair, State.setWinner_queue, State.enqueue_channel, atSource]
    · rw [if_neg (Ne.symm apart), State.enqueue_channel, if_pos rfl]
      rfl
    · rw [if_pos rfl, State.enqueue_channel, if_neg apart]
      rfl
    · rw [together, if_pos rfl, State.enqueue_channel, if_pos rfl, Channel.queue_enqueue_enqueue]
      rfl
  case write =>
    have atDest : x.dst.channel = c := by simpa [CopyCandidate.arbiter, write] using here
    refine ⟨atDest, CopyCandidate.afterGrant_poisonWrite n write, ?_⟩
    rw [State.admitPair_poisonWrite s c n write, State.setWinner_queue, State.enqueue_channel, atDest, if_pos rfl]
    rfl

end Sys2Proof.Machine
end

section
/-! SUPPORT. The ends of a relocation: its commit, the end of an abandon, and the end record posted or held (R155 to R157,
R161). -/

namespace Sys2Proof.Machine

/-! ## The entries that hold an end back (R87) -/

theorem State.anyEntry_eq_false_iff (s : State) (f : Entry → Bool) :
    s.anyEntry f = false ↔ ∀ (p : PortId), ∀ e ∈ s.tracker p, f e = false := by
  simp [State.anyEntry, mem_allPorts]

theorem Resolution.sourceSide_eq_false_iff (r : Resolution) : r.sourceSide = false ↔ ∃ d, r = .dest d := by
  cases r <;> simp [Resolution.sourceSide]

theorem Resolution.destSide_eq_false_iff (r : Resolution) : r.destSide = false ↔ ∃ d, r = .source d := by
  cases r <;> simp [Resolution.destSide]

theorem State.hasSourceSide_eq_false_iff (s : State) (x : ExtentId) : s.hasSourceSide x = false ↔
    ∀ (p : PortId), ∀ e ∈ s.tracker p, e.extent = x → ∃ d, e.resolution = .dest d := by
  simp [State.hasSourceSide, State.anyEntry_eq_false_iff, Resolution.sourceSide_eq_false_iff]

theorem State.hasDestSide_eq_false_iff (s : State) (x : ExtentId) : s.hasDestSide x = false ↔
    ∀ (p : PortId), ∀ e ∈ s.tracker p, e.extent = x → ∃ d, e.resolution = .source d := by
  simp [State.hasDestSide, State.anyEntry_eq_false_iff, Resolution.destSide_eq_false_iff]

/-! ## The commands -/

section
variable {s : State} (running : s.power = .running)
include running

theorem exec_relocationCommit_ends {r : Relocation} (engine : s.copyEngine = .running r) (phase : r.phase = .finishing)
    (clear : s.hasSourceSide r.extent = false) : exec .relocationCommit s = .next (s.commitRelocation r) := by
  show execRelocationCommit s = _
  simp [execRelocationCommit, State.whenRunning_running running, engine, phase, clear]

theorem exec_abandonEnd_ends {r : Relocation} {reason : AbandonReason} (engine : s.copyEngine = .running r)
    (phase : r.phase = .abandoning reason) (pairs : r.pairs = []) (clear : s.hasDestSide r.extent = false) :
    exec .abandonEnd s = .next (s.endAbandon r reason) := by
  show execAbandonEnd s = _
  simp [execAbandonEnd, State.whenRunning_running running, engine, phase, pairs, clear]

/-- A held record is posted as it would have been at once. -/
theorem exec_endRecordPost_posts {record : CompletionRecord} (engine : s.copyEngine = .ending record)
    (free : s.placeFree = true) : exec .endRecordPost s = .next (s.finishCopy record) := by
  show execEndRecordPost s = _
  simp [execEndRecordPost, State.whenRunning_running running, engine, free, State.finishCopy]

theorem exec_endRecordPost_holds {record : CompletionRecord} (engine : s.copyEngine = .ending record)
    (full : s.placeFree = false) : exec .endRecordPost s = .next s := by
  show execEndRecordPost s = _
  simp [execEndRecordPost, State.whenRunning_running running, engine, full]

end

/-! ## What the end record leaves alone -/

/-- Leaving every extent alone comes after changing one. -/
theorem State.sameBeside_trans {s t u : State} {x : Option ExtentId} (h : s.sameBeside t x) (k : t.sameBeside u none) :
    s.sameBeside u x := by
  unfold State.sameBeside at *
  grind

theorem State.finishCopy_sameBeside (s : State) (r : CompletionRecord) : s.sameBeside (s.finishCopy r) none := by
  obtain ⟨ports, queues, quiet, e⟩ := s.finishCopy_frame r
  rw [e]
  split
  · exact ⟨rfl, rfl, rfl, rfl, rfl, rfl, rfl, rfl, rfl, rfl, rfl, rfl, rfl, rfl, rfl, quiet, fun _ _ => rfl⟩
  · exact State.sameBeside_refl s none

theorem State.finishCopy_extent (s : State) (r : CompletionRecord) (x : ExtentId) :
    (s.finishCopy r).extent x = s.extent x := by
  obtain ⟨ports, queues, -, e⟩ := s.finishCopy_frame r
  rw [e]
  split <;> rfl

theorem State.finishCopy_changeQueue (s : State) (r : CompletionRecord) :
    (s.finishCopy r).changeQueue = s.changeQueue := by
  obtain ⟨ports, queues, -, e⟩ := s.finishCopy_frame r
  rw [e]
  split <;> rfl

theorem State.finishCopy_active (s : State) (r : CompletionRecord) : (s.finishCopy r).active = s.active := by
  obtain ⟨ports, queues, -, e⟩ := s.finishCopy_frame r
  rw [e]
  split <;> rfl

/-! ## The end of a relocation -/

/-- The record of an extent settled and the relocation's end record posted or held: the commit and the end of an abandon
are this with the record's fields moved or left (R155, R161). -/
def State.endRelocation (s : State) (x : ExtentId) (f : ExtentBody → ExtentBody) (o : RecordOutcome) : State :=
  (s.activate x f).finishCopy ((s.activate x f).endRecord x o)

theorem State.commitRelocation_eq (s : State) (r : Relocation) : s.commitRelocation r =
    s.endRelocation r.extent (fun b => b.relocated r.targetBase) (.relocationDone r.poisonedLines r.destFault) := rfl

theorem State.endAbandon_eq (s : State) (r : Relocation) (reason : AbandonReason) :
    s.endAbandon r reason = s.endRelocation r.extent id (.relocationAbandoned reason) := rfl

section
variable {s : State} {x : ExtentId} {b : ExtentBody} (body : (s.extent x).body? = some b)
  (f : ExtentBody → ExtentBody) (o : RecordOutcome)
include body

theorem State.endRelocation_extent : (s.endRelocation x f o).extent x = .active (f b) := by
  rw [State.endRelocation, State.finishCopy_extent, State.activate_some body, State.setExtent_extent_self]

theorem State.endRelocation_sameBeside : s.sameBeside (s.endRelocation x f o) (some x) := by
  rw [State.endRelocation, State.activate_some body]
  exact State.sameBeside_trans (s.sameBeside_setExtent x _) (State.finishCopy_sameBeside _ _)

/-- The end record carries the generation of the settled record (R156). -/
theorem State.endRecord_activate : (s.activate x f).endRecord x o =
    { changeId := 0, kind := .relocationEnd, extent := some x, port := none, submitter := none, outcome := o,
      generationAfter := some (f b).generation } := by
  simp [State.endRecord, State.generationOf, State.activate_body?_self, body]

/-- The end record posted when a place is free, else held, as the state before the end has one or not (R157). -/
theorem State.endRelocation_record (rec : CompletionRecord) (h : rec =
      { changeId := 0, kind := .relocationEnd, extent := some x, port := none, submitter := none, outcome := o,
        generationAfter := some (f b).generation }) :
    (s.placeFree = true → (s.endRelocation x f o).copyEngine = .idle ∧
      (s.endRelocation x f o).completions = s.completions ++ [rec] ∧
      s.sendsNotices (s.endRelocation x f o) [] (some rec)) ∧
    (s.placeFree = false → (s.endRelocation x f o).copyEngine = .ending rec ∧
      (s.endRelocation x f o).completions = s.completions ∧ s.sendsNotices (s.endRelocation x f o) [] none) := by
  rw [State.endRelocation, State.endRecord_activate body, ← h, State.activate_some body]
  have side : s.sameNoticeSide (s.setExtent x (.active (f b))) := ⟨rfl, rfl, rfl⟩
  obtain ⟨posted, held⟩ := (s.setExtent x (.active (f b))).finishCopy_spec rec
  refine ⟨fun free => ?_, fun full => ?_⟩
  · obtain ⟨engine, completions, sends⟩ := posted free
    exact ⟨engine, completions, State.sendsNotices_congr side sends⟩
  · obtain ⟨engine, completions, sends⟩ := held full
    exact ⟨engine, completions, State.sendsNotices_congr side sends⟩

end

theorem State.endRelocation_changeQueue (s : State) (x : ExtentId) (f : ExtentBody → ExtentBody) (o : RecordOutcome) :
    (s.endRelocation x f o).changeQueue = s.changeQueue := by
  obtain ⟨extents, e⟩ := s.activate_frame x f
  rw [State.endRelocation, State.finishCopy_changeQueue, e]

theorem State.endRelocation_active (s : State) (x : ExtentId) (f : ExtentBody → ExtentBody) (o : RecordOutcome) :
    (s.endRelocation x f o).active = s.active := by
  rw [State.endRelocation, State.finishCopy_active, State.activate_active]

/-- Settles O41: the commit and the end of an abandon are one end of a relocation, and a held record is posted as one. -/
theorem relocationEnds : Obligations.RelocationEnds := by
  refine ⟨fun s r b running engine relocating => ?_, fun s rec running engine => ⟨fun free => ?_, fun full => ?_⟩⟩
  · have body : (s.extent r.extent).body? = some b := by rw [relocating]; rfl
    refine ⟨fun phase entries => ?_, fun reason phase pairs entries => ?_⟩
    · have clear := (s.hasSourceSide_eq_false_iff r.extent).mpr entries
      refine ⟨_, exec_relocationCommit_ends running engine phase clear, ?_⟩
      rw [State.commitRelocation_eq]
      exact ⟨State.endRelocation_extent body _ _, State.endRelocation_record body (fun b => b.relocated r.targetBase) _,
        State.endRelocation_sameBeside body _ _, State.endRelocation_changeQueue .., State.endRelocation_active ..⟩
    · have clear := (s.hasDestSide_eq_false_iff r.extent).mpr entries
      refine ⟨_, exec_abandonEnd_ends running engine phase pairs clear, ?_⟩
      rw [State.endAbandon_eq]
      exact ⟨State.endRelocation_extent body _ _, State.endRelocation_record body id _,
        State.endRelocation_sameBeside body _ _, State.endRelocation_changeQueue .., State.endRelocation_active ..⟩
  · obtain ⟨idle, completions, sends⟩ := (s.finishCopy_spec rec).1 free
    exact ⟨_, exec_endRecordPost_posts running engine free, idle, completions, sends, s.finishCopy_sameBeside rec,
      s.finishCopy_changeQueue rec⟩
  · exact exec_endRecordPost_holds running engine full

end Sys2Proof.Machine
end

section
/-! SUPPORT. The holder's requests that abort a relocation, clear the channels' errors and clear the interrupted-operation
record (R158, R111, R143). -/

namespace Sys2Proof.Machine

section
variable (s : State) (path : MgmtPath) (kind : Byte)

theorem State.takeRequest_withCopyEngine (e : CopyEngine) :
    ({ s with copyEngine := e } : State).takeRequest path kind = { s.takeRequest path kind with copyEngine := e } := by
  cases path <;> rfl

theorem State.takeRequest_withInterrupted (i : Option Interrupted) :
    ({ s with interrupted := i } : State).takeRequest path kind = { s.takeRequest path kind with interrupted := i } := by
  cases path <;> rfl

theorem State.takeRequest_clearErrorsOf (c : ChannelId) :
    (s.clearErrorsOf c).takeRequest path kind = (s.takeRequest path kind).clearErrorsOf c := by
  cases path <;> rfl

/-- Clearing one channel's errors leaves the other channel as it was. -/
theorem State.clearErrorsOf_both : (s.clearErrorsOf 0).clearErrorsOf 1 =
    (s.setChannel 0 (s.channel 0).clearErrors).setChannel 1 (s.channel 1).clearErrors := by
  rw [State.clearErrorsOf, State.clearErrorsOf, State.setChannel_channel_ne s 0 _ 1 (by decide)]

end

section
variable {s : State} {path : MgmtPath} (m : s.manages path)
include m

/-! ## ABORT_RELOCATION (R158) -/

section
variable {b : Byte} {x : ExtentId} (operand : extentOperand b = some x)
include operand

theorem State.abortRelocation_abandons {r : Relocation} (engine : s.copyEngine = .running r) (extent : r.extent = x)
    (phase : r.phase = .copying) : exec (.abortRelocation path b) s =
      .next (({ s with copyEngine := .running { r with phase := .abandoning .requested } } : State).answered
        path 0x23 .ok []) :=
  congrArg Host.Outcome.next <| State.request_changed m.1 <| by
    simp only [operand]
    rw [State.holderOnly_holder (by simpa using m.2)]
    simp [engine, extent, phase, State.takeRequest_withCopyEngine]

theorem State.abortRelocation_tooLate {r : Relocation} (engine : s.copyEngine = .running r) (extent : r.extent = x)
    (phase : r.phase = .finishing) :
    exec (.abortRelocation path b) s = .next (s.answered path 0x23 .tooLate []) :=
  congrArg Host.Outcome.next <| State.request_unchanged m.1 _ _ _ <| by
    simp only [operand]
    rw [State.holderOnly_holder (by simpa using m.2)]
    simp [engine, extent, phase]

theorem State.abortRelocation_notFound (engine : s.copyEngine = .idle) :
    exec (.abortRelocation path b) s = .next (s.answered path 0x23 .notFound []) :=
  congrArg Host.Outcome.next <| State.request_unchanged m.1 _ _ _ <| by
    simp only [operand]
    rw [State.holderOnly_holder (by simpa using m.2)]
    simp [engine]

end

/-! ## CLEAR_ERRORS (R111) and CLEAR_INTERRUPTED (R143) -/

theorem State.clearErrors_ch0 : exec (.clearErrors path 0) s = .next ((s.clearErrorsOf 0).answered path 0x24 .ok []) :=
  congrArg Host.Outcome.next <| State.holderRequest_changed m <| by rw [State.takeRequest_clearErrorsOf]

theorem State.clearErrors_ch1 : exec (.clearErrors path 1) s = .next ((s.clearErrorsOf 1).answered path 0x24 .ok []) :=
  congrArg Host.Outcome.next <| State.holderRequest_changed m <| by rw [State.takeRequest_clearErrorsOf]

theorem State.clearErrors_both : exec (.clearErrors path 2) s =
    .next (((s.clearErrorsOf 0).clearErrorsOf 1).answered path 0x24 .ok []) :=
  congrArg Host.Outcome.next <| State.holderRequest_changed m <| by
    rw [State.takeRequest_clearErrorsOf, State.takeRequest_clearErrorsOf]

theorem State.clearInterrupted_clears : exec (.clearInterrupted path) s =
    .next (({ s with interrupted := none } : State).answered path 0x25 .ok []) :=
  congrArg Host.Outcome.next <| State.holderRequest_changed m <| by
    simp only [State.takeRequest_withInterrupted]

end

/-- Settles O45, answer by answer. -/
theorem relocationAbortedAndErrorsCleared : Obligations.RelocationAbortedAndErrorsCleared := by
  intro s path m
  refine ⟨fun b x r operand engine extent => ⟨State.abortRelocation_abandons m operand engine extent,
      State.abortRelocation_tooLate m operand engine extent⟩,
    fun b x operand engine => State.abortRelocation_notFound m operand engine, State.clearErrors_ch0 m,
    State.clearErrors_ch1 m, ?_, State.clearInterrupted_clears m⟩
  rw [State.clearErrors_both m, State.clearErrorsOf_both]
  rfl

end Sys2Proof.Machine
end

section
/-! SUPPORT. What NOTICE_ACK does by the length of its packet and by the split of the list at its sequence (R170, R194). -/

namespace Sys2Proof.Machine

/-- A payload that is not of n bytes, or whose length field says another number, is of a wrong length (R194). -/
theorem lengthOk_eq_false {pkt : RawPacket} {n : Nat} (h : pkt.len.toNat ≠ n ∨ pkt.body.length ≠ n) :
    lengthOk pkt n = false := by
  obtain len | body := h
  · simp [lengthOk, len]
  · simp [lengthOk, body]

/-- A removal from the list of a port that has no handover in CONFIRM tells the Change Engine nothing (R129, R168). -/
theorem State.reportAck_unconfirmed {s : State} {p : PortId} (removed : List Notice)
    (elsewhere : ∀ h, s.active = some h → h.phase = .confirm → h.losing ≠ p) : s.reportAck p removed = s := by
  unfold State.reportAck
  split
  · rfl
  · next h active =>
    have apart : ¬(h.phase = .confirm ∧ h.losing = p) := fun ⟨phase, losing⟩ => elsewhere h active phase losing
    have unconfirmed : h.confirmedBy p removed = false := by
      simp only [Handover.confirmedBy, ← Bool.decide_and, decide_eq_false apart, Bool.false_and]
    rw [unconfirmed, if_neg Bool.false_ne_true, if_neg fun held => apart ⟨held.1, held.2.1⟩]

section
variable {s : State} {p : PortId} {pkt : RawPacket} (hears : s.hears p)
include hears

theorem exec_noticeAck_malformed (bad : lengthOk pkt 1 = false) :
    exec (.noticeAck p pkt) s = .next (s.protocolError p .malformed none) := by
  show execNoticeAck p pkt s = _
  rw [execNoticeAck, State.onPacket_hears hears, bad]; rfl

theorem exec_noticeAck_unknown (ok : lengthOk pkt 1 = true)
    (unknown : ackSplit (packetTag pkt) (s.noticeQueue p).notices = none) :
    exec (.noticeAck p pkt) s = .next (s.protocolError p .badAck (some (packetTag pkt))) := by
  show execNoticeAck p pkt s = _
  rw [execNoticeAck, State.onPacket_hears hears, if_pos ok, unknown]

theorem exec_noticeAck_removes {removed kept : List Notice} (ok : lengthOk pkt 1 = true)
    (named : ackSplit (packetTag pkt) (s.noticeQueue p).notices = some (removed, kept)) :
    exec (.noticeAck p pkt) s =
      .next ((s.setNoticeQueue p { s.noticeQueue p with notices := kept }).reportAck p removed) := by
  show execNoticeAck p pkt s = _
  rw [execNoticeAck, State.onPacket_hears hears, if_pos ok, named]

end

/-- Settles O20: the list is split at the named notice, or has none of that sequence, or is not searched. -/
theorem acknowledgementsRemoveNotices : Obligations.AcknowledgementsRemoveNotices := by
  intro s p sq hears
  refine ⟨fun older kept n list named first elsewhere => ?removed, fun absent => ?unknown, fun pkt bad => ?malformed⟩
  case removed =>
    rw [exec_noticeAck_removes hears rfl (list ▸ ackSplit_some first named),
      State.reportAck_unconfirmed _ (by simpa using elsewhere)]
  case unknown =>
    rw [exec_noticeAck_unknown (pkt := { len := 1, body := [sq] }) hears rfl (ackSplit_none absent)]
    rfl
  case malformed =>
    have wrong : pkt.len.toNat ≠ 1 ∨ pkt.body.length ≠ 1 := bad.imp_left fun len one => len (BitVec.eq_of_toNat_eq one)
    rw [exec_noticeAck_malformed hears (lengthOk_eq_false wrong)]
    rfl

end Sys2Proof.Machine
end

section
/-! SUPPORT. The manager role under each shared operation and each command (R178, R179). -/

namespace Sys2Proof.Machine

theorem State.roleLaw.ite {t u : State} {P : Prop} [Decidable P] (h : P → t.roleLaw) (k : ¬ P → u.roleLaw) :
    (if P then t else u).roleLaw := by
  split
  · next p => exact h p
  · next n => exact k n

/-- The same of a request's state, beside its reply. -/
theorem State.roleLaw.iteFst {x y : State × Reply} {P : Prop} [Decidable P] (h : P → x.1.roleLaw)
    (k : ¬ P → y.1.roleLaw) : (if P then x else y).1.roleLaw := by
  split
  · next p => exact h p
  · next n => exact k n

/-! ## The law under the shared operations -/

section
variable {s : State} (l : s.roleLaw)
include l

/-- What leaves the holder, and every port but for what it sends, as they were keeps the law. -/
theorem State.roleLaw.of_quiet {t : State} (holder : t.holder = s.holder) (ports : quietSame t.ports s.ports) :
    t.roleLaw := fun p h => (LinkPort.quiet_fields (ports p)).1.trans (l p (holder ▸ h))

/-- The law speaks of the holder and the ports alone. -/
theorem State.roleLaw.same {t : State} (h : (t.holder, t.ports) = (s.holder, s.ports)) : t.roleLaw := by
  obtain ⟨holder, ports⟩ := Prod.mk.inj h
  exact l.of_quiet holder (ports ▸ quietSame_refl _)

theorem State.roleLaw.setPort {p : PortId} {x : LinkPort} (h : (s.port p).state = .opened → x.state = .opened) :
    (s.setPort p x).roleLaw := by
  intro q hq
  have opened := l q hq
  rw [State.setPort_port]
  split
  · next e => exact h (e ▸ opened)
  · exact opened

/-- A port that is not OPEN does not hold the role, and changes freely. -/
theorem State.roleLaw.setPort_closed {p : PortId} {x : LinkPort} (h : (s.port p).state ≠ .opened) :
    (s.setPort p x).roleLaw := l.setPort fun o => absurd o h

theorem State.roleLaw.sendAll (p : PortId) (pkts : List OutPacket) : (s.sendAll p pkts).roleLaw := by
  obtain ⟨ports, e, q⟩ := s.sendAll_frame p pkts
  rw [e]
  exact l.of_quiet rfl q

theorem State.roleLaw.send (p : PortId) (pkt : OutPacket) : (s.send p pkt).roleLaw := l.sendAll p [pkt]

theorem State.roleLaw.offerNotice (p : PortId) (body : NoticeBody) : (s.offerNotice p body).roleLaw := by
  obtain ⟨ports, queues, e, q⟩ := s.offerNotice_frame p body
  rw [e]
  exact l.of_quiet rfl q

theorem State.roleLaw.offerNotices (notices : List (PortId × NoticeBody)) : (s.offerNotices notices).roleLaw := by
  obtain ⟨ports, queues, e, q⟩ := s.offerNotices_frame notices
  rw [e]
  exact l.of_quiet rfl q

theorem State.roleLaw.postRecord (r : CompletionRecord) : (s.postRecord r).roleLaw := by
  obtain ⟨ports, queues, e, q⟩ := s.postRecord_frame r
  rw [e]
  exact l.of_quiet rfl q

theorem State.roleLaw.endHead (ch : ChangeRecord) (o : RecordOutcome) (notices : List (PortId × NoticeBody)) :
    (s.endHead ch o notices).roleLaw := by
  obtain ⟨ports, queues, e, q⟩ := s.endHead_frame ch o notices
  rw [e]
  exact l.of_quiet rfl q

theorem State.roleLaw.activate (x : ExtentId) (f : ExtentBody → ExtentBody) : (s.activate x f).roleLaw := by
  obtain ⟨extents, e⟩ := s.activate_frame x f
  rw [e]
  exact l

theorem State.roleLaw.finishCopy (r : CompletionRecord) : (s.finishCopy r).roleLaw :=
  .ite (fun _ => (l.same (by rfl)).postRecord r) fun _ => l

theorem State.roleLaw.applyFates (p : PortId) (f : Entry → Fate) : (s.applyFates p f).roleLaw := by
  obtain ⟨ports, e, q⟩ := s.applyFates_frame p f
  rw [e]
  exact l.of_quiet rfl q

theorem State.roleLaw.applyFatesAll (f : Entry → Fate) : (s.applyFatesAll f).roleLaw := by
  obtain ⟨ports, trackers, e, q⟩ := s.applyFatesAll_frame f
  rw [e]
  exact l.of_quiet rfl q

theorem State.roleLaw.respond (path : MgmtPath) (r : MgmtResponse) : (s.respond path r).roleLaw := by
  obtain ⟨ports, i2c, slots, e, q⟩ := s.respond_frame path r
  rw [e]
  exact l.of_quiet rfl q

theorem State.roleLaw.takeRequest (path : MgmtPath) (kind : Byte) : (s.takeRequest path kind).roleLaw := by
  cases path <;> exact l

/-! ## Frames of a command -/

theorem State.roleLaw.whenRunning {f : State → State} (h : (f s).roleLaw) : (s.whenRunning f).roleLaw :=
  .ite (fun _ => h) fun _ => l

theorem State.roleLaw.onPacket (p : PortId) {f : State → State} (h : (f s).roleLaw) : (s.onPacket p f).roleLaw := by
  rcases s.onPacket_cases p f with e | e <;> rw [e]
  · exact l
  · exact h

/-- A request keeps the law as its owning block does. -/
theorem State.roleLaw.request (path : MgmtPath) (kind : Byte) {act : State → State × Reply}
    (h : ∀ t : State, t.roleLaw → (act t).1.roleLaw) : (s.request path kind act).roleLaw := by
  unfold State.request
  split
  · exact l
  · cases path with
    | i2c => exact l
    | inBand p => exact l.send p _
  · have done := h _ (l.takeRequest path kind)
    generalize act (s.takeRequest path kind) = result at done
    obtain ⟨t, reply⟩ := result
    cases reply with
    | now st data => exact done.respond path _
    | later => exact done
    | nothing => exact done

theorem State.roleLaw.holderOnly (path : MgmtPath) {act : State → State × Reply} (h : (act s).1.roleLaw) :
    (s.holderOnly path act).1.roleLaw := .iteFst (fun _ => h) fun _ => l

/-! ## Handovers and changes -/

theorem State.roleLaw.commitHandover (h : Handover) : (s.commitHandover h).roleLaw := (l.activate _ _).endHead _ _ _

theorem State.roleLaw.rollback (h : Handover) (o : RecordOutcome) : (s.rollback h o).roleLaw :=
  (l.activate _ _).endHead _ _ _

theorem State.roleLaw.enterDrain (h : Handover) (c : Confirmation) : (s.enterDrain h c).roleLaw := by
  rcases s.enterDrain_cases h c with e | e <;> rw [e]
  · exact l
  · exact (l.same (by rfl)).commitHandover _

theorem State.roleLaw.offerPending (h : Handover) : (s.offerPending h).roleLaw :=
  .ite (fun _ => (l.same (by rfl)).offerNotice _ _) fun _ => l

theorem State.roleLaw.confirmByLoss (p : PortId) : (s.confirmByLoss p).roleLaw := by
  unfold State.confirmByLoss
  cases s.active with
  | none => exact l
  | some h => exact .ite (fun _ => l.enterDrain _ _) fun _ => l

theorem State.roleLaw.forceDrain (h : Handover) : (s.forceDrain h).roleLaw := by
  have aborted := l.applyFates h.losing (Entry.onForceAbort h.extent h.writesOnly)
  exact .ite (fun _ => (aborted.same (by rfl)).commitHandover _) fun _ => aborted

theorem State.roleLaw.startHandover (ch : ChangeRecord) (x : ExtentId) (losing : PortId) (kind : HandoverKind)
    (confirm force : Bool) : (s.startHandover ch x losing kind confirm force).roleLaw := by
  have marked : (s.markChanging x ch.id).roleLaw := by
    unfold State.markChanging
    cases (s.extent x).body? <;> exact l
  exact .ite (fun _ => .ite (fun _ => marked.offerPending _) fun _ => marked.enterDrain _ _)
    fun _ => marked.enterDrain _ _

theorem State.roleLaw.commitImmediate (ch : ChangeRecord) (x : ExtentId) (f : ExtentBody → ExtentBody)
    (notices : Generation → List (PortId × NoticeBody)) : (s.commitImmediate ch x f notices).roleLaw :=
  (l.activate x f).endHead _ _ _

theorem State.roleLaw.applyRights (ch : ChangeRecord) (x : ExtentId) (p : PortId) (r : Rights) (confirm force : Bool) :
    (s.applyRights ch x p r confirm force).roleLaw := by
  unfold State.applyRights
  cases s.mappingOf x p with
  | none => exact l
  | some m =>
    refine .ite (fun _ => l.endHead _ _ _) fun _ => ?_
    cases r with
    | readWrite => exact l.commitImmediate _ _ _ _
    | read => exact l.startHandover _ _ _ _ _ _

theorem State.roleLaw.startRelocation (ch : ChangeRecord) (x : ExtentId) (base : Nat) :
    (s.startRelocation ch x base).roleLaw := by
  unfold State.startRelocation
  cases (s.extent x).body? with
  | none => exact l
  | some b => exact (l.same (by rfl)).endHead _ _ _

/-- A start acts on the head change alone. -/
theorem State.roleLaw.startHead {act : State → ChangeRecord → State} (h : ∀ ch, (act s ch).roleLaw) :
    (s.startHead act).roleLaw := by
  refine l.whenRunning ?_
  cases s.startable with
  | none => exact l
  | some ch => exact h ch

theorem State.roleLaw.validated (ch : ChangeRecord) (checks : List (Bool × RejectReason)) {pass : State → State}
    (h : (pass s).roleLaw) : (s.validated ch checks pass).roleLaw := by
  cases e : firstFailure checks with
  | none => rw [State.validated_pass e]; exact h
  | some reason => rw [State.validated_fail e]; exact l.endHead ch _ _

theorem State.roleLaw.reportAck (p : PortId) (removed : List Notice) : (s.reportAck p removed).roleLaw := by
  unfold State.reportAck
  cases s.active with
  | none => exact l
  | some h => exact .ite (fun _ => l.enterDrain _ _) fun _ => .ite (fun _ => l) fun _ => l

theorem State.roleLaw.cancelWaiting (id : Nat) : (s.cancelWaiting id).1.roleLaw := by
  unfold State.cancelWaiting
  cases s.waitingChanges.find? fun ch => decide (ch.id = id) with
  | none => exact l
  | some ch => exact .iteFst (fun _ => (l.same (by rfl)).postRecord _) fun _ => l

/-! ## Relocations and channels -/

theorem State.roleLaw.commitRelocation (r : Relocation) : (s.commitRelocation r).roleLaw :=
  (l.activate _ _).finishCopy _

theorem State.roleLaw.endAbandon (r : Relocation) (reason : AbandonReason) : (s.endAbandon r reason).roleLaw :=
  (l.activate _ _).finishCopy _

theorem State.roleLaw.finishIfCopied : s.finishIfCopied.roleLaw := by
  unfold State.finishIfCopied
  cases s.copyEngine with
  | idle => exact l
  | ending record => exact l
  | running r => exact .ite (fun _ => .ite (fun _ => l) fun _ => (l.same (by rfl)).commitRelocation _) fun _ => l

theorem State.roleLaw.copyWriteDone (n : PairNumber) : (s.copyWriteDone n).roleLaw := by
  unfold State.copyWriteDone
  cases s.copyEngine with
  | idle => exact l
  | ending record => exact l
  | running r => exact (l.same (by rfl)).finishIfCopied

theorem State.roleLaw.copyReadDone (n : PairNumber) (content : LineContent) : (s.copyReadDone n content).roleLaw := by
  unfold State.copyReadDone
  cases s.copyEngine with
  | idle => exact l
  | ending record => exact l
  | running r => cases h : r.pairs.find? fun x => decide (x.number = n) <;> simp only [h] <;> exact l

theorem State.roleLaw.countOutcome (c : ChannelId) (e : EccOutcome) (line : Nat) (origin : Position) :
    (s.countOutcome c e line origin).roleLaw := by
  cases e <;> exact l

theorem State.roleLaw.admitEntry (c : ChannelId) (p : PortId) (e : Entry) : (s.admitEntry c p e).roleLaw := by
  rw [State.admitEntry_frame]
  exact l

theorem State.roleLaw.admitPair (c : ChannelId) (x : CopyCandidate) (n : PairNumber) : (s.admitPair c x n).roleLaw := by
  rw [State.admitPair_frame]
  exact l

theorem State.roleLaw.copyOnAbort (c : ChannelId) : (s.copyOnAbort c).roleLaw := by
  unfold State.copyOnAbort
  cases s.copyEngine with
  | idle => exact l
  | ending record => exact l
  | running r =>
    obtain ⟨channels, e, -⟩ := State.supplyAll_frame (r.pairs.filter (fun x => x.poisonedByAbort c))
      { s with copyEngine := .running (r.onAbort c) }
    dsimp only
    rw [e]
    exact l

theorem State.roleLaw.abortQueue (c : ChannelId) : (s.abortQueue c).roleLaw :=
  ((l.same (by rfl)).applyFatesAll _).copyOnAbort c

theorem State.roleLaw.copyOnFaultReport (c : ChannelId) : (s.copyOnFaultReport c).roleLaw := by
  unfold State.copyOnFaultReport
  cases s.copyEngine with
  | idle => exact l
  | ending record => exact l
  | running r => exact .ite (fun _ => l) fun _ => l

theorem State.roleLaw.setChannel (c : ChannelId) (x : Channel) : (s.setChannel c x).roleLaw := l

theorem State.roleLaw.reportFault (c : ChannelId) : (s.reportFault c).roleLaw :=
  (((l.applyFatesAll _).copyOnFaultReport c).offerNotices _).setChannel c _

theorem State.roleLaw.enterFaulted (c : ChannelId) : (s.enterFaulted c).roleLaw :=
  ((l.setChannel c _).abortQueue c).reportFault c

theorem State.roleLaw.answerDetection (requester : Option MgmtPath) (st : MgmtStatus) (data : List Byte) :
    (s.answerDetection requester st data).roleLaw := by
  cases requester with
  | none => exact l
  | some path => exact l.respond path _

theorem State.roleLaw.endDetection (c : ChannelId) (fromFaulted : Bool) (requester : Option MgmtPath)
    (found : Option (Vector (Option Nat) 4)) : (s.endDetection c fromFaulted requester found).roleLaw := by
  unfold State.endDetection
  cases found with
  | none => exact (l.enterFaulted c).answerDetection _ _ _
  | some slots =>
    have answered : ∀ x st data, ((s.setChannel c x).answerDetection requester st data).roleLaw := fun x st data =>
      (l.setChannel c x).answerDetection requester st data
    exact .ite (fun _ => answered _ _ _) fun _ => .ite (fun _ => answered _ _ _) fun _ => answered _ _ _

theorem State.roleLaw.faultEvent (c : ChannelId) : (s.faultEvent c).roleLaw := by
  unfold State.faultEvent
  cases (s.channel c).state with
  | offline => exact l
  | faulted => exact l
  | filling => exact l.enterFaulted c
  | online => exact l.enterFaulted c
  | detecting ff req => exact (l.enterFaulted c).answerDetection _ _ _

/-! ## Packets -/

theorem State.roleLaw.protocolError (p : PortId) (kind : PortErrorKind) (tag : Option Byte) :
    (s.protocolError p kind tag).roleLaw := l.setPort id

theorem State.roleLaw.refuse (p : PortId) (kind : ReqKind) (tag : Byte) (reason : AbortReason) :
    (s.refuse p kind tag reason).roleLaw := by
  unfold State.refuse
  cases reason.protocolError? with
  | some error => exact (l.protocolError p _ _).send p _
  | none => exact l.send p _

theorem State.roleLaw.takeRequestPacket {t : State} {p : PortId} {kind : ReqKind} {pkt : RawPacket} {ok : Bool}
    {mask : ByteMask} (h : s.takeRequestPacket p kind pkt ok mask = .next t) : t.roleLaw := by
  unfold State.takeRequestPacket at h
  split at h
  · split at h
    · split at h
      · cases h; exact l.refuse p kind _ _
      · cases h; exact l
      · cases h
    · cases h
      unfold State.refuseMalformed
      cases readableTag pkt with
      | some tag => exact l.refuse p kind _ _
      | none => exact l.protocolError p _ _
  · cases h; exact l

theorem State.roleLaw.takeData (p : PortId) (tag half : Byte) (d : HalfData) : (s.takeData p tag half d).roleLaw := by
  unfold State.takeData
  cases countedEntry (s.tracker p) .write tag with
  | none => exact l.setPort id
  | some e => exact .ite (fun _ => l) fun _ => l.setPort id

/-! ## A port leaves OPEN (R52, R54, R179) -/

/-- A port that changes is freed of the role, whatever its new state. -/
theorem State.roleLaw.freeRole {t : State} {p : PortId} (holder : t.holder = s.holder)
    (other : ∀ q, q ≠ p → (t.port q).state = (s.port q).state) : (t.freeRole p).roleLaw := by
  intro q hq
  unfold State.freeRole at hq ⊢
  split at hq
  · cases hq
  · next own =>
    rw [if_neg own]
    have ne : q ≠ p := fun e => own (e ▸ hq)
    exact (other q ne).trans (l q (holder ▸ hq))

theorem State.roleLaw.resetPort (p : PortId) (target : PortState) (clear : Bool) :
    (s.resetPort p target clear).roleLaw := by
  have freed : ∀ x : LinkPort, (((s.setPort p x).setNoticeQueue p .empty).freeRole p).roleLaw := fun x =>
    l.freeRole rfl fun q ne => congrArg LinkPort.state (s.setPort_port_ne p x q ne)
  exact (((freed _).same (by rfl)).confirmByLoss p).applyFates p _

theorem State.roleLaw.completeClose (p : PortId) : (s.completeClose p).roleLaw :=
  .ite (fun h => l.setPort_closed (by simp [h.1])) fun _ => l

theorem State.roleLaw.leaveOpen {t : State} {p : PortId} (holder : t.holder = s.holder)
    (other : ∀ q, q ≠ p → (t.port q).state = (s.port q).state) : (t.leaveOpen p).roleLaw := by
  have freed : ((t.setNoticeQueue p { t.noticeQueue p with notices := [], lost := 0 }).freeRole p).roleLaw :=
    l.freeRole holder other
  exact freed.confirmByLoss p

theorem State.roleLaw.writePortClose (p : PortId) : (s.writePortClose p).roleLaw := by
  refine .ite (fun _ => ?_) fun _ => l.send p _
  · obtain ⟨ports, sent, quiet⟩ := (s.setPort p { s.port p with state := .closing }).sendAll_frame p
      [.configDone Word.portClose]
    refine (l.leaveOpen ?_ fun q ne => ?_).completeClose p
    · rw [State.send, sent]
      rfl
    · rw [State.send, sent]
      exact (LinkPort.quiet_fields (quiet q)).1.trans (congrArg LinkPort.state (s.setPort_port_ne p _ q ne))

/-! ## The configuration words -/

theorem State.roleLaw.writeWindowAccept (p : PortId) (value : BitVec 64) : (s.writeWindowAccept p value).roleLaw :=
  .ite (fun _ => .ite (fun _ => (l.setPort (by exact id)).send p _) fun _ => l.send p _) fun _ => l.send p _

theorem State.roleLaw.writePortOpen (p : PortId) (value : BitVec 64) : (s.writePortOpen p value).roleLaw := by
  refine .ite (fun _ => ?_) fun _ => l.send p _
  cases s.openRefusal p value with
  | some reason => exact l.send p _
  | none => exact (l.setPort fun _ => rfl).send p _

theorem State.roleLaw.configAccess (p : PortId) (access : ConfigAccess) : (s.configAccess p access).roleLaw := by
  unfold State.configAccess
  split
  · split <;> exact l.send p _
  · split
    · exact l.send p _
    · exact l.send p _
    · exact l.send p _
    · exact l.writeWindowAccept p _
    · exact l.writePortOpen p _
    · exact l.writePortClose p
    · exact l.send p _

end

end Sys2Proof.Machine
end

section
/-! SUPPORT. Every command keeps a port that holds the manager role OPEN (R178). -/

namespace Sys2Proof.Machine

/-- The next state that an outcome gives obeys the law; a stop gives none. -/
def keepsRole (o : Host.Outcome State Fault Refusal) : Prop := ∀ t, o = .next t → t.roleLaw

theorem keepsRole_next {t : State} (l : t.roleLaw) : keepsRole (.next t) := by rintro u ⟨rfl⟩; exact l

/-- A holder that is no port obeys the law. -/
theorem State.roleLaw_of_holder {t : State} (h : ∀ p, t.holder ≠ .port p) : t.roleLaw := fun p hp => absurd hp (h p)

theorem State.atPowerOn_roleLaw (s : State) (power : Power) (straps : Straps) : (s.atPowerOn power straps).roleLaw :=
  State.roleLaw_of_holder fun _ h => nomatch h

theorem State.beginReset_roleLaw (s : State) (cause : ResetCause) : (s.beginReset cause).roleLaw :=
  State.roleLaw_of_holder fun _ h => nomatch h

/-- The eligibility set gives the role to no port (R181). -/
theorem Holder.eq_of_withSet_eq {h : Holder} {set : BitVec 4} {p : PortId} (k : h.withSet set = .port p) :
    h = .port p := by
  cases h with
  | none => cases k
  | i2c => cases k
  | port q =>
    simp only [Holder.withSet] at k
    split at k
    · exact k
    · cases k

section
variable {s : State} (l : s.roleLaw)
include l

/-! ## The Change Engine and the Copy Engine -/

theorem execCreate_keepsRole : keepsRole (execCreate s) := by
  refine keepsRole_next (l.startHead fun ch => ?_)
  cases ch.op with
  | create => exact l.validated ch _ ((l.same (by rfl)).endHead ch _ _)
  | _ => exact l

theorem execRetire_keepsRole : keepsRole (execRetire s) := by
  refine keepsRole_next (l.startHead fun ch => ?_)
  cases ch.op with
  | retire => exact l.validated ch _ ((l.same (by rfl)).endHead ch _ _)
  | _ => exact l

theorem execMap_keepsRole : keepsRole (execMap s) := by
  refine keepsRole_next (l.startHead fun ch => ?_)
  cases ch.op with
  | map => exact l.validated ch _ (l.commitImmediate ch _ _ _)
  | _ => exact l

theorem execSetShare_keepsRole : keepsRole (execSetShare s) := by
  refine keepsRole_next (l.startHead fun ch => ?_)
  cases ch.op with
  | setShare => exact l.validated ch _ (l.commitImmediate ch _ _ _)
  | _ => exact l

theorem execSetWindow_keepsRole : keepsRole (execSetWindow s) := by
  refine keepsRole_next (l.startHead fun ch => ?_)
  cases ch.op with
  | setWindow p size => exact l.validated ch _ ((l.setPort (p := p) (by exact id)).endHead ch _ _)
  | _ => exact l

theorem execSetRights_keepsRole : keepsRole (execSetRights s) := by
  refine keepsRole_next (l.startHead fun ch => ?_)
  cases ch.op with
  | setRights => exact l.validated ch _ (l.applyRights ch _ _ _ _ _)
  | _ => exact l

theorem execUnmap_keepsRole : keepsRole (execUnmap s) := by
  refine keepsRole_next (l.startHead fun ch => ?_)
  cases ch.op with
  | unmap => exact l.validated ch _ (l.startHandover ch _ _ _ _ _)
  | _ => exact l

theorem execTransfer_keepsRole : keepsRole (execTransfer s) := by
  refine keepsRole_next (l.startHead fun ch => ?_)
  cases ch.op with
  | transfer => exact l.validated ch _ (l.startHandover ch _ _ _ _ _)
  | _ => exact l

theorem execRelocate_keepsRole : keepsRole (execRelocate s) := by
  refine keepsRole_next (l.startHead fun ch => ?_)
  cases ch.op with
  | relocate => exact l.validated ch _ (l.startRelocation ch _ _)
  | _ => exact l

theorem execConfirmTimerExpiry_keepsRole : keepsRole (execConfirmTimerExpiry s) := by
  refine keepsRole_next (l.whenRunning ?_)
  cases s.active with
  | none => exact l
  | some h => exact .ite (fun _ => l.rollback _ _) fun _ => l

theorem execDrainTimerExpiry_keepsRole : keepsRole (execDrainTimerExpiry s) := by
  refine keepsRole_next (l.whenRunning ?_)
  cases s.active with
  | none => exact l
  | some h => exact .ite (fun _ => .ite (fun _ => l.forceDrain _) fun _ => l.rollback _ _) fun _ => l

theorem execHandoverCommit_keepsRole : keepsRole (execHandoverCommit s) := by
  refine keepsRole_next (l.whenRunning ?_)
  cases s.active with
  | none => exact l
  | some h => exact .ite (fun _ => l.commitHandover _) fun _ => l

theorem execPendingNoticeReoffer_keepsRole : keepsRole (execPendingNoticeReoffer s) := by
  refine keepsRole_next (l.whenRunning ?_)
  cases s.active with
  | none => exact l
  | some h => exact .ite (fun _ => l.offerPending _) fun _ => l

theorem execRelocationCommit_keepsRole : keepsRole (execRelocationCommit s) := by
  refine keepsRole_next (l.whenRunning ?_)
  cases s.copyEngine with
  | running r => exact .ite (fun _ => l.commitRelocation _) fun _ => l
  | _ => exact l

theorem execAbandonEnd_keepsRole : keepsRole (execAbandonEnd s) := by
  refine keepsRole_next (l.whenRunning ?_)
  cases s.copyEngine with
  | running r =>
    dsimp only
    cases r.phase with
    | abandoning reason => exact .ite (fun _ => l.endAbandon _ _) fun _ => l
    | _ => exact l
  | _ => exact l

theorem execEndRecordPost_keepsRole : keepsRole (execEndRecordPost s) := by
  refine keepsRole_next (l.whenRunning ?_)
  cases s.copyEngine with
  | ending record => exact .ite (fun _ => (l.same (by rfl)).postRecord _) fun _ => l
  | _ => exact l

/-! ## Packets and link events -/

theorem execNoticeAck_keepsRole (p : PortId) (pkt : RawPacket) : keepsRole (execNoticeAck p pkt s) := by
  refine keepsRole_next (l.onPacket p (.ite (fun _ => ?_) fun _ => l.protocolError p _ _))
  cases ackSplit (packetTag pkt) (s.noticeQueue p).notices with
  | none => exact l.protocolError p _ _
  | some lists => exact (l.same (by rfl)).reportAck p _

theorem execPacketCrcDrop_keepsRole (p : PortId) (bytes : List Byte) : keepsRole (execPacketCrcDrop p bytes s) :=
  keepsRole_next (l.onPacket p (.ite (fun _ => l.setPort id) fun _ => l))

theorem execUndefinedPacket_keepsRole (p : PortId) (kind : Byte) (pkt : RawPacket) :
    keepsRole (execUndefinedPacket p kind pkt s) :=
  keepsRole_next (l.onPacket p (.ite (fun _ => l.protocolError p _ _) fun _ => l))

theorem execWdata_keepsRole (p : PortId) (pkt : RawPacket) : keepsRole (execWdata p pkt s) :=
  keepsRole_next (l.onPacket p (.ite (fun _ => l.takeData p _ _ _) fun _ => l.protocolError p _ _))

theorem execPartnerDetected_keepsRole (p : PortId) : keepsRole (execPartnerDetected p s) :=
  keepsRole_next (l.whenRunning (.ite (fun down => l.setPort_closed (by simp [down])) fun _ => l))

theorem execTrainingComplete_keepsRole (p : PortId) : keepsRole (execTrainingComplete p s) :=
  keepsRole_next (l.whenRunning (.ite (fun training => l.setPort_closed (by simp [training])) fun _ => l))

theorem execLinkLost_keepsRole (p : PortId) : keepsRole (execLinkLost p s) := by
  have down (h : (s.port p).state ≠ .opened) : ((s.setPort p ((s.port p).drop .down)).setNoticeQueue p .empty).roleLaw :=
    (l.setPort_closed h).same (by rfl)
  refine keepsRole_next (l.whenRunning ?_)
  cases h : (s.port p).state with
  | training => exact down (by simp [h])
  | awaitOpen => exact down (by simp [h])
  | opened => exact l.resetPort p .down false
  | closing => exact l.resetPort p .down false
  | _ => exact l

theorem execBringUpTimerExpiry_keepsRole (p : PortId) : keepsRole (execBringUpTimerExpiry p s) :=
  keepsRole_next (l.whenRunning (.ite (fun h => l.setPort_closed fun opened => by simp [opened] at h) fun _ => l))

/-! ## The channels -/

theorem execAdmission_keepsRole (c : ChannelId) : keepsRole (execAdmission c s) := by
  refine keepsRole_next (l.whenRunning ?_)
  cases (s.nextGrant c).bind positionPort with
  | none => exact l
  | some p =>
    dsimp only
    cases trackerCandidate (s.tracker p) c with
    | none => exact l
    | some e => exact l.admitEntry c p e

theorem execCopyPairAdmission_keepsRole (c : ChannelId) : keepsRole (execCopyPairAdmission c s) := by
  refine keepsRole_next (l.whenRunning (.ite (fun _ => ?_) fun _ => l))
  cases s.copyCandidate with
  | none => exact l
  | some x =>
    dsimp only
    cases freePairNumber x.relocation.pairs with
    | none => exact l
    | some n => exact l.admitPair c x n

theorem execReadComplete_keepsRole (c : ChannelId) (p : PortId) (tag : Byte) (media : MediaResult) :
    keepsRole (execReadComplete c p tag media s) := by
  refine keepsRole_next (l.whenRunning ?_)
  dsimp only
  cases (s.channel c).completable (Operation.isRead p tag) with
  | none => exact l
  | some op => exact ((l.setChannel c _).countOutcome c _ _ _).applyFates p _

theorem execWriteComplete_keepsRole (c : ChannelId) (p : PortId) (tag : Byte) (part : Option Part)
    (media : MediaResult) : keepsRole (execWriteComplete c p tag part media s) := by
  refine keepsRole_next (l.whenRunning ?_)
  dsimp only
  cases (s.channel c).completable (Operation.isWrite p tag part) with
  | none => exact l
  | some op => exact ((l.setChannel c _).countOutcome c _ _ _).applyFates p _

theorem execCopyReadComplete_keepsRole (c : ChannelId) (pair : PairNumber) (media : MediaResult) :
    keepsRole (execCopyReadComplete c pair media s) := by
  refine keepsRole_next (l.whenRunning ?_)
  dsimp only
  cases (s.channel c).completable (Operation.isCopyRead pair) with
  | none => exact l
  | some op => exact ((l.setChannel c _).countOutcome c _ _ _).copyReadDone pair _

theorem execCopyWriteComplete_keepsRole (c : ChannelId) (pair : PairNumber) :
    keepsRole (execCopyWriteComplete c pair s) := by
  refine keepsRole_next (l.whenRunning ?_)
  dsimp only
  cases (s.channel c).completable (Operation.isCopyWrite pair) with
  | none => exact l
  | some op =>
    dsimp only
    split
    · exact (l.setChannel c _).copyWriteDone pair
    · exact l

theorem execDetectionEnd_keepsRole (c : ChannelId) (slot0 slot1 slot2 slot3 : SlotReport) :
    keepsRole (execDetectionEnd c slot0 slot1 slot2 slot3 s) := by
  refine keepsRole_next (l.whenRunning ?_)
  cases (s.channel c).state with
  | detecting => exact l.endDetection c _ _ _
  | _ => exact l

theorem execFillEnd_keepsRole (c : ChannelId) : keepsRole (execFillEnd c s) :=
  keepsRole_next (l.whenRunning (.ite (fun _ => l.setChannel c _) fun _ => l))

theorem execChannelFault_keepsRole (c : ChannelId) : keepsRole (execChannelFault c s) := by
  refine keepsRole_next ?_
  cases s.power with
  | off => exact l
  | inReset => exact .ite (fun _ => l.setChannel c _) fun _ => l
  | running => exact l.faultEvent c

/-! ## Power and reset -/

theorem execResetNFallingEdge_keepsRole : keepsRole (execResetNFallingEdge s) :=
  keepsRole_next (.ite (fun _ => State.beginReset_roleLaw _ _) fun _ => l)

theorem execResetNRise_keepsRole (straps : Straps) : keepsRole (execResetNRise straps s) :=
  keepsRole_next (.ite (fun _ => l.same (by rfl)) fun _ => l)

theorem execBridgeResetEnd_keepsRole (straps : Straps) : keepsRole (execBridgeResetEnd straps s) :=
  keepsRole_next (.ite (fun _ => l.same (by rfl)) fun _ => l)

theorem execBridgeReset_keepsRole (path : MgmtPath) : keepsRole (execBridgeReset path s) := by
  refine keepsRole_next (l.request path _ fun t k => ?_)
  cases path with
  | i2c => exact t.beginReset_roleLaw _
  | inBand p => exact k

/-! ## Requests -/

theorem State.roleLaw.report (data : List Byte) : (s.report data).1.roleLaw := l

theorem execReadExtent_keepsRole (path : MgmtPath) (extent : Byte) : keepsRole (execReadExtent path extent s) := by
  refine keepsRole_next (l.request path _ fun t k => ?_)
  cases extentOperand extent with
  | none => exact k
  | some x => exact k.report _

theorem execReadPort_keepsRole (path : MgmtPath) (port clear : Byte) : keepsRole (execReadPort path port clear s) := by
  refine keepsRole_next (l.request path _ fun t k => ?_)
  split
  · exact k.report _
  · next p _ _ => exact k.holderOnly path ((k.setPort (p := p) (by exact id)).report _)
  · exact k

theorem execReadChannel_keepsRole (path : MgmtPath) (channel : Byte) : keepsRole (execReadChannel path channel s) := by
  refine keepsRole_next (l.request path _ fun t k => ?_)
  cases channelOperand channel with
  | none => exact k
  | some c => exact k.report _

theorem execPeekCompletion_keepsRole (path : MgmtPath) : keepsRole (execPeekCompletion path s) := by
  refine keepsRole_next (l.request path _ fun t k => ?_)
  cases t.completions <;> exact k

theorem execSubmit_keepsRole (path : MgmtPath) (operands : SubmitOperands) : keepsRole (execSubmit path operands s) := by
  refine keepsRole_next (l.request path _ fun t k => k.holderOnly path ?_)
  cases operands.change? with
  | none => exact k
  | some op => exact .iteFst (fun _ => k) fun _ => k

theorem execCancel_keepsRole (path : MgmtPath) (id : BitVec 16) : keepsRole (execCancel path id s) := by
  refine keepsRole_next (l.request path _ fun t k => k.holderOnly path ?_)
  cases t.active with
  | none => exact k.cancelWaiting _
  | some h => exact .iteFst (fun _ => k.rollback _ _) fun _ => k.cancelWaiting _

theorem execPopCompletion_keepsRole (path : MgmtPath) : keepsRole (execPopCompletion path s) := by
  refine keepsRole_next (l.request path _ fun t k => k.holderOnly path ?_)
  cases t.completions <;> exact k

theorem execAbortRelocation_keepsRole (path : MgmtPath) (extent : Byte) :
    keepsRole (execAbortRelocation path extent s) := by
  refine keepsRole_next (l.request path _ fun t k => ?_)
  cases extentOperand extent with
  | none => exact k
  | some x =>
    refine k.holderOnly path ?_
    cases t.copyEngine with
    | running r =>
      refine .iteFst (fun _ => ?_) fun _ => k
      cases r.phase <;> exact k
    | _ => exact k

theorem execClearErrors_keepsRole (path : MgmtPath) (selector : Byte) : keepsRole (execClearErrors path selector s) := by
  refine keepsRole_next (l.request path _ fun t k => ?_)
  split
  · exact k.holderOnly path (k.setChannel 0 _)
  · exact k.holderOnly path (k.setChannel 1 _)
  · exact k.holderOnly path ((k.setChannel 0 _).setChannel 1 _)
  · exact k

theorem execSetLayout_keepsRole (path : MgmtPath) (index : Byte) (limit : BitVec 16) (mode : Byte) :
    keepsRole (execSetLayout path index limit mode s) := by
  refine keepsRole_next (l.request path _ fun t k => k.holderOnly path ?_)
  refine .iteFst (fun _ => k) fun _ => .iteFst (fun _ => k) fun _ => ?_
  split <;> exact k

theorem execClearLayout_keepsRole (path : MgmtPath) : keepsRole (execClearLayout path s) :=
  keepsRole_next (l.request path _ fun _ k => k.holderOnly path (.iteFst (fun _ => k) fun _ => k))

theorem execPoolCommit_keepsRole (path : MgmtPath) : keepsRole (execPoolCommit path s) := by
  refine keepsRole_next (l.request path _ fun t k => k.holderOnly path (.iteFst (fun _ => k) fun _ => ?_))
  cases t.commitRefusal <;> exact k

theorem execPoolTeardown_keepsRole (path : MgmtPath) : keepsRole (execPoolTeardown path s) :=
  keepsRole_next (l.request path _ fun _ k => k.holderOnly path
    (.iteFst (fun _ => .iteFst (fun _ => k) fun _ => k) fun _ => k))

theorem execChannelOnline_keepsRole (path : MgmtPath) (channel : Byte) :
    keepsRole (execChannelOnline path channel s) := by
  refine keepsRole_next (l.request path _ fun t k => ?_)
  cases channelOperand channel with
  | none => exact k
  | some c =>
    refine k.holderOnly path ?_
    cases (t.channel c).state with
    | offline => exact k.setChannel c _
    | faulted => exact k.setChannel c _
    | _ => exact k

theorem execChannelOffline_keepsRole (path : MgmtPath) (channel : Byte) :
    keepsRole (execChannelOffline path channel s) := by
  refine keepsRole_next (l.request path _ fun t k => ?_)
  cases channelOperand channel with
  | none => exact k
  | some c =>
    refine k.holderOnly path (.iteFst (fun _ => k) fun _ => .iteFst (fun _ => k) fun _ => ?_)
    have taken : (t.takeOffline c).roleLaw := (k.abortQueue c).setChannel c _
    cases (t.channel c).state with
    | detecting => exact k
    | _ => exact taken

theorem execPortEnable_keepsRole (path : MgmtPath) (port : Byte) : keepsRole (execPortEnable path port s) := by
  refine keepsRole_next (l.request path _ fun t k => ?_)
  cases portOperand port with
  | none => exact k
  | some p =>
    exact k.holderOnly path (.iteFst (fun disabled => k.setPort_closed (by simp [disabled])) fun _ => k)

/-- A port disabled or reset by request: its counters are cleared, and unless it was DISABLED it is reset (R61). -/
theorem State.roleLaw.clearOrReset (p : PortId) (target : PortState) :
    (if (s.port p).state = .disabled then s.clearPort p else s.resetPort p target true).roleLaw :=
  .ite (fun _ => l.setPort id) fun _ => l.resetPort p target true

theorem execPortDisable_keepsRole (path : MgmtPath) (port : Byte) : keepsRole (execPortDisable path port s) := by
  refine keepsRole_next (l.request path _ fun t k => ?_)
  cases portOperand port with
  | none => exact k
  | some p => exact k.holderOnly path (k.clearOrReset p _)

theorem execPortReset_keepsRole (path : MgmtPath) (port : Byte) : keepsRole (execPortReset path port s) := by
  refine keepsRole_next (l.request path _ fun t k => ?_)
  cases portOperand port with
  | none => exact k
  | some p => exact k.holderOnly path (k.clearOrReset p _)

theorem execSetOffer_keepsRole (path : MgmtPath) (port readOffer writeOffer : Byte) :
    keepsRole (execSetOffer path port readOffer writeOffer s) := by
  refine keepsRole_next (l.request path _ fun t k => ?_)
  cases portOperand port with
  | none => exact k
  | some p =>
    refine k.holderOnly path ?_
    split
    · exact .iteFst (fun _ => k) fun _ => k.setPort id
    · exact k

theorem execSetTimers_keepsRole (path : MgmtPath) (confirm drain : BitVec 16) (bringUp : Byte)
    (writeData : BitVec 16) : keepsRole (execSetTimers path confirm drain bringUp writeData s) := by
  refine keepsRole_next (l.request path _ fun t k => k.holderOnly path ?_)
  cases t.limits.update confirm.toNat drain.toNat bringUp.toNat writeData.toNat <;> exact k

theorem execSetPreserve_keepsRole (path : MgmtPath) (value : Byte) : keepsRole (execSetPreserve path value s) := by
  refine keepsRole_next (l.request path _ fun t k => ?_)
  cases flagOperand value with
  | none => exact k
  | some b => exact k.holderOnly path k

/-! ## The manager role -/

/-- A CLAIM gives the role to I2C, or to a port that is OPEN (R178). -/
theorem State.roleLaw.claimFor {path : MgmtPath} (h : ∀ p, path = .inBand p → (s.port p).state = .opened) :
    (s.claimFor path).1.roleLaw := by
  refine .iteFst (fun _ p hp => ?_) fun _ => .iteFst (fun _ => l) fun _ => l
  cases path with
  | i2c => cases hp
  | inBand q => cases hp; exact h p rfl

theorem execClaim_keepsRole (path : MgmtPath) : keepsRole (execClaim path s) := by
  refine keepsRole_next (l.request path _ fun t k => ?_)
  cases path with
  | i2c => exact k.claimFor (by simp)
  | inBand p =>
    exact .iteFst (fun _ => k) fun opened => .iteFst (fun _ => k) fun _ =>
      k.claimFor fun q own => MgmtPath.inBand.inj own ▸ Decidable.not_not.mp opened

theorem execRelease_keepsRole (path : MgmtPath) : keepsRole (execRelease path s) :=
  keepsRole_next (l.request path _ fun _ k => k.holderOnly path (State.roleLaw_of_holder fun _ h => nomatch h))

theorem execBreakRole_keepsRole (path : MgmtPath) : keepsRole (execBreakRole path s) := by
  refine keepsRole_next (l.request path _ fun t k => ?_)
  cases path with
  | inBand p => exact k
  | i2c =>
    have taken : ({ t with holder := .i2c } : State).roleLaw := State.roleLaw_of_holder fun _ h => nomatch h
    dsimp only
    split
    · exact taken.offerNotice _ _
    · exact k
    · exact taken

theorem execSetEligible_keepsRole (path : MgmtPath) (value : Byte) : keepsRole (execSetEligible path value s) := by
  refine keepsRole_next (l.request path _ fun t k => .iteFst (fun _ => k) fun _ => ?_)
  cases path with
  | inBand p => exact k
  | i2c => exact .iteFst (fun _ => k) fun _ p hp => k p (Holder.eq_of_withSet_eq hp)

theorem execMgmtBadRequest_keepsRole (frame : MgmtFrame) : keepsRole (execMgmtBadRequest frame s) :=
  keepsRole_next (.ite (fun _ => l) fun _ => l.request _ _ fun _ k => k)

/-! ## Every command -/

/-- Every command keeps the role with an OPEN port, I2C or nobody. -/
theorem exec_keepsRole (c : Instr) : keepsRole (exec c s) := by
  cases c with
  | powerOn straps => exact keepsRole_next (s.atPowerOn_roleLaw _ straps)
  | pwrgoodDeasserted => exact keepsRole_next (s.atPowerOn_roleLaw .off s.straps)
  | resetNFallingEdge => exact execResetNFallingEdge_keepsRole l
  | resetNRise straps => exact execResetNRise_keepsRole l straps
  | bridgeReset path => exact execBridgeReset_keepsRole l path
  | bridgeResetEnd straps => exact execBridgeResetEnd_keepsRole l straps
  | partnerDetected p => exact execPartnerDetected_keepsRole l p
  | trainingComplete p => exact execTrainingComplete_keepsRole l p
  | trainingFailed p => exact keepsRole_next l
  | linkLost p => exact execLinkLost_keepsRole l p
  | bringUpTimerExpiry p => exact execBringUpTimerExpiry_keepsRole l p
  | packetCrcDrop p bytes => exact execPacketCrcDrop_keepsRole l p bytes
  | undefinedPacket p kind pkt => exact execUndefinedPacket_keepsRole l p kind pkt
  | read p pkt => exact fun t h => l.takeRequestPacket h
  | write p pkt => exact fun t h => l.takeRequestPacket h
  | wdata p pkt => exact execWdata_keepsRole l p pkt
  | writeDataTimerExpiry p tag => exact keepsRole_next (l.whenRunning (l.applyFates p _))
  | noticeAck p pkt => exact execNoticeAck_keepsRole l p pkt
  | windowAccept p value => exact keepsRole_next (l.onPacket p (l.writeWindowAccept p value))
  | portOpen p value => exact keepsRole_next (l.onPacket p (l.writePortOpen p value))
  | portClose p value => exact keepsRole_next (l.onPacket p (l.writePortClose p))
  | configWrite p access => exact keepsRole_next (l.onPacket p (l.configAccess p access))
  | closeComplete p => exact keepsRole_next (l.whenRunning (l.completeClose p))
  | admission c => exact execAdmission_keepsRole l c
  | copyPairAdmission c => exact execCopyPairAdmission_keepsRole l c
  | readComplete c p tag media => exact execReadComplete_keepsRole l c p tag media
  | writeComplete c p tag part media => exact execWriteComplete_keepsRole l c p tag part media
  | copyReadComplete c pair media => exact execCopyReadComplete_keepsRole l c pair media
  | copyWriteComplete c pair => exact execCopyWriteComplete_keepsRole l c pair
  | detectionEnd c slot0 slot1 slot2 slot3 => exact execDetectionEnd_keepsRole l c slot0 slot1 slot2 slot3
  | fillEnd c => exact execFillEnd_keepsRole l c
  | channelFault c => exact execChannelFault_keepsRole l c
  | confirmTimerExpiry => exact execConfirmTimerExpiry_keepsRole l
  | drainTimerExpiry => exact execDrainTimerExpiry_keepsRole l
  | handoverCommit => exact execHandoverCommit_keepsRole l
  | create => exact execCreate_keepsRole l
  | retire => exact execRetire_keepsRole l
  | map => exact execMap_keepsRole l
  | setShare => exact execSetShare_keepsRole l
  | setWindow => exact execSetWindow_keepsRole l
  | setRights => exact execSetRights_keepsRole l
  | unmap => exact execUnmap_keepsRole l
  | transfer => exact execTransfer_keepsRole l
  | relocate => exact execRelocate_keepsRole l
  | pendingNoticeReoffer => exact execPendingNoticeReoffer_keepsRole l
  | relocationCommit => exact execRelocationCommit_keepsRole l
  | abandonEnd => exact execAbandonEnd_keepsRole l
  | endRecordPost => exact execEndRecordPost_keepsRole l
  | readStatus path => exact keepsRole_next (l.request path _ fun _ k => k.report _)
  | readExtent path extent => exact execReadExtent_keepsRole l path extent
  | readLayout path => exact keepsRole_next (l.request path _ fun _ k => k.report _)
  | readPort path port clear => exact execReadPort_keepsRole l path port clear
  | readChannel path channel => exact execReadChannel_keepsRole l path channel
  | readErrors path => exact keepsRole_next (l.request path _ fun _ k => k.report _)
  | peekCompletion path => exact execPeekCompletion_keepsRole l path
  | submit path operands => exact execSubmit_keepsRole l path operands
  | cancel path id => exact execCancel_keepsRole l path id
  | popCompletion path => exact execPopCompletion_keepsRole l path
  | abortRelocation path extent => exact execAbortRelocation_keepsRole l path extent
  | clearErrors path selector => exact execClearErrors_keepsRole l path selector
  | clearInterrupted path => exact keepsRole_next (l.request path _ fun _ k => k.holderOnly path k)
  | setLayout path index limit mode => exact execSetLayout_keepsRole l path index limit mode
  | clearLayout path => exact execClearLayout_keepsRole l path
  | poolCommit path => exact execPoolCommit_keepsRole l path
  | poolTeardown path => exact execPoolTeardown_keepsRole l path
  | channelOnline path channel => exact execChannelOnline_keepsRole l path channel
  | channelOffline path channel => exact execChannelOffline_keepsRole l path channel
  | portEnable path port => exact execPortEnable_keepsRole l path port
  | portDisable path port => exact execPortDisable_keepsRole l path port
  | portReset path port => exact execPortReset_keepsRole l path port
  | setOffer path port readOffer writeOffer => exact execSetOffer_keepsRole l path port readOffer writeOffer
  | setTimers path confirm drain bringUp writeData =>
    exact execSetTimers_keepsRole l path confirm drain bringUp writeData
  | setPreserve path value => exact execSetPreserve_keepsRole l path value
  | claim path => exact execClaim_keepsRole l path
  | release path => exact execRelease_keepsRole l path
  | breakRole path => exact execBreakRole_keepsRole l path
  | setEligible path value => exact execSetEligible_keepsRole l path value
  | mgmtBadRequest frame => exact execMgmtBadRequest_keepsRole l frame

end

/-- Settles O54: the law is kept by every command, and taking a command off the queue touches neither holder nor port. -/
theorem stepKeepsRoleLaw : Obligations.StepKeepsRoleLaw := by
  intro s t l h
  unfold step at h
  split at h
  · cases h; exact l
  · exact exec_keepsRole (State.roleLaw.same l (by rfl)) _ t h

end Sys2Proof.Machine
end

section
/-! SUPPORT. Power and the two ends of a bridge reset (R189), and the commands of a bridge that does not run. -/

namespace Sys2Proof.Machine

/-! ## A bridge that does not run -/

section
variable {s : State} (idle : s.power ≠ .running)
include idle

theorem State.whenRunning_idle (f : State → State) : s.whenRunning f = s := if_neg idle

theorem State.reception_idle (path : MgmtPath) : s.reception path = .notReceived := if_pos idle

theorem State.request_idle (path : MgmtPath) (kind : Byte) (act : State → State × Reply) :
    s.request path kind act = s := State.request_notReceived (State.reception_idle idle path) kind act

theorem State.takeRequestPacket_idle (p : PortId) (kind : ReqKind) (pkt : RawPacket) (ok : Bool) (mask : ByteMask) :
    s.takeRequestPacket p kind pkt ok mask = .next s := if_neg fun running => idle running.1

theorem State.i2cAnswers_idle (address : BitVec 7) : s.i2cAnswers address = false := by simp [State.i2cAnswers, idle]

end

/-- Without power a command outside those of power has no effect: it is a request, which is not received, a request
packet, a fault, the end of a reset, or an event that acts while the bridge runs. -/
theorem exec_off {s : State} (off : s.power = .off) {c : Instr} (other : powerCommand c = false) :
    exec c s = .next s := by
  have idle : s.power ≠ .running := by simp [off]
  cases c with
  | powerOn | pwrgoodDeasserted | resetNFallingEdge | resetNRise => cases other
  | read p pkt => exact State.takeRequestPacket_idle idle p .read pkt _ _
  | write p pkt => exact State.takeRequestPacket_idle idle p .write pkt _ _
  | trainingFailed p => rfl
  | channelFault c =>
    show execChannelFault c s = _
    rw [execChannelFault, off]
  | bridgeResetEnd straps => exact congrArg Host.Outcome.next (if_neg (by simp [off]))
  | mgmtBadRequest frame =>
    show execMgmtBadRequest frame s = _
    rw [execMgmtBadRequest, State.request_idle idle, ite_self]
  | readStatus | readExtent | readLayout | readPort | readChannel | readErrors | peekCompletion | submit | cancel
  | popCompletion | abortRelocation | clearErrors | clearInterrupted | setLayout | clearLayout | poolCommit
  | poolTeardown | channelOnline | channelOffline | portEnable | portDisable | portReset | setOffer | setTimers
  | setPreserve | claim | release | breakRole | setEligible | bridgeReset =>
    exact congrArg Host.Outcome.next (State.request_idle idle _ _ _)
  | _ => exact congrArg Host.Outcome.next (State.whenRunning_idle idle _)

/-- Settles O4: the commands without power, and the target's address unanswered. -/
theorem nothingWhilePowerIsOff : Obligations.NothingWhilePowerIsOff := by
  refine ⟨fun c s off other => exec_off off other, fun s address i idle => ?_⟩
  have silent := State.i2cAnswers_idle idle address
  exact ⟨by simp [State.i2cRead, silent], by simp [State.i2cTakesWrite, silent]⟩

/-! ## Power-on (Tables 14, 23, 29, 36, 46, 53, 55, 64 and R21) -/

theorem Channel.atPowerOn_capacity : Channel.atPowerOn.capacity = 0 := by decide

/-- Every block of the state after power-on is that of the state after reset. -/
theorem State.atPowerOn_powerOnValues (s : State) (power : Power) (straps : Straps) :
    (s.atPowerOn power straps).powerOnValues := by
  let t := s.atPowerOn power straps
  have port (p : PortId) : t.port p = LinkPort.atPowerOn := State.reset_port p
  have tracker (p : PortId) : t.tracker p = [] := State.reset_tracker p
  have queue (p : PortId) : t.noticeQueue p = NoticeQueue.empty := State.reset_noticeQueue p
  have slot (p : PortId) : t.slot p = none := by simp [t, State.slot, State.atPowerOn, State.reset]
  have channel (c : ChannelId) : t.channel c = Channel.atPowerOn := State.reset_channel c
  have quiet : t.alertAsserted = false := by
    rw [← Bool.not_eq_true, t.alertAsserted_iff]
    rintro (records | ⟨c, error⟩ | interrupted)
    · exact records rfl
    · exact error (by rw [channel]; rfl)
    · exact interrupted rfl
  refine ⟨rfl, rfl, State.reset_extent, rfl, fun p => ?ports, fun c => ?channels, rfl, rfl, rfl, rfl, rfl, rfl, rfl, rfl,
    quiet⟩
  case ports =>
    rw [port, tracker, queue, slot]
    exact ⟨rfl, rfl, rfl, rfl, rfl, rfl, rfl, rfl, rfl, rfl, rfl, rfl, rfl, rfl, rfl, rfl⟩
  case channels =>
    rw [channel]
    exact ⟨rfl, Channel.atPowerOn_capacity, rfl, rfl, rfl, rfl, rfl, rfl, rfl, rfl⟩

/-- Settles O5: both commands take every block to its power-on values. -/
theorem powerOnValues : Obligations.PowerOnValues := fun straps s =>
  ⟨⟨_, rfl, rfl, rfl, rfl, s.atPowerOn_powerOnValues _ straps⟩, ⟨_, rfl, rfl, s.atPowerOn_powerOnValues .off s.straps⟩⟩

/-! ## A bridge reset begins -/

theorem exec_resetNFallingEdge_begins {s : State} (running : s.power = .running) :
    exec .resetNFallingEdge s = .next (({ s with resetNLow := true } : State).beginReset .resetPin) :=
  congrArg Host.Outcome.next (if_pos running)

/-- BRIDGE_RESET is not answered: the buffer that it marked is emptied with every other block. -/
theorem exec_bridgeReset_begins {s : State} (received : s.receives .i2c) :
    exec (.bridgeReset .i2c) s = .next (s.beginReset .resetRequest) :=
  congrArg Host.Outcome.next (State.request_taken received Req.bridgeReset _)

section
variable (s : State) (cause : ResetCause)

theorem LinkPort.atBridgeReset_emptied (x : LinkPort) (preserve : Bool) :
    (x.atBridgeReset preserve).state = (if x.state = .disabled then .disabled else .down) ∧
    (x.atBridgeReset preserve).acceptance = none ∧ (x.atBridgeReset preserve).grantedReads = 0 ∧
    (x.atBridgeReset preserve).grantedWrites = 0 ∧ (x.atBridgeReset preserve).crcDrops = 0 ∧
    (x.atBridgeReset preserve).protocolErrors = 0 ∧ (x.atBridgeReset preserve).orphanData = 0 ∧
    (x.atBridgeReset preserve).error = none ∧ (x.atBridgeReset preserve).outbox = [] :=
  ⟨rfl, rfl, rfl, rfl, rfl, rfl, rfl, rfl, rfl⟩

/-- With preserve and without, a channel loses its queue and its last winner, and keeps its errors (Table 36). -/
theorem Channel.atBridgeReset_errors (x : Channel) (preserve : Bool) (n : Nat) :
    (x.atBridgeReset preserve n).queue = [] ∧ (x.atBridgeReset preserve n).lastWinner = 4 ∧
    (x.atBridgeReset preserve n).firstError = x.firstError ∧
    (x.atBridgeReset preserve n).furtherErrors = x.furtherErrors ∧
    (x.atBridgeReset preserve n).correctable = x.correctable := by
  cases preserve with
  | false => exact ⟨rfl, rfl, rfl, rfl, rfl⟩
  | true => cases state : x.state <;> simp [Channel.atBridgeReset, Channel.goOffline, state]

theorem State.beginReset_preserve : (s.beginReset cause).layout.preserve = false := by
  cases preserve : s.layout.preserve with
  | false => rw [State.beginReset_layout_cleared cause preserve]
  | true => rw [State.beginReset_layout_kept cause preserve]

theorem State.beginReset_tracker (p : PortId) : (s.beginReset cause).tracker p = [] := State.reset_tracker p

theorem State.beginReset_noticeQueue (p : PortId) : (s.beginReset cause).noticeQueue p = NoticeQueue.empty :=
  State.reset_noticeQueue p

theorem State.beginReset_slot (p : PortId) : (s.beginReset cause).slot p = none := by
  simp [State.slot, State.beginReset]

end

/-- Settles O6: the two commands begin the same reset, which empties each block. -/
theorem bridgeResetBegins : Obligations.BridgeResetBegins := by
  intro s running c cause begins
  obtain ⟨low, e⟩ : ∃ low, exec c s = .next (({ s with resetNLow := low } : State).beginReset cause) := by
    rcases begins with ⟨rfl, rfl⟩ | ⟨rfl, rfl, received⟩
    · exact ⟨true, exec_resetNFallingEdge_begins running⟩
    · exact ⟨s.resetNLow, exec_bridgeReset_begins received⟩
  let u : State := { s with resetNLow := low }
  refine ⟨u.beginReset cause, e, rfl, rfl, u.beginReset_preserve cause, rfl, rfl, rfl, rfl, rfl, rfl, rfl, fun p => ?port,
    fun ch => ?channel⟩
  case port =>
    rw [u.beginReset_tracker, u.beginReset_noticeQueue, u.beginReset_slot, u.port_beginReset]
    exact ⟨rfl, rfl, rfl, LinkPort.atBridgeReset_emptied _ _⟩
  case channel =>
    obtain ⟨n, same⟩ := u.channel_beginReset cause ch
    rw [same]
    exact Channel.atBridgeReset_errors _ _ n

/-! ## A bridge reset ends -/

theorem exec_resetNRise_ends {s : State} (inReset : s.power = .inReset) (low : s.resetNLow = true) (straps : Straps) :
    exec (.resetNRise straps) s = .next (({ s with resetNLow := false } : State).endReset straps) :=
  congrArg Host.Outcome.next (if_pos ⟨inReset, low⟩)

theorem exec_bridgeResetEnd_ends {s : State} (inReset : s.power = .inReset) (high : s.resetNLow = false)
    (straps : Straps) : exec (.bridgeResetEnd straps) s = .next (s.endReset straps) :=
  congrArg Host.Outcome.next (if_pos ⟨inReset, high⟩)

theorem exec_bridgeResetEnd_held {s : State} (low : s.resetNLow = true) (straps : Straps) :
    exec (.bridgeResetEnd straps) s = .next s := congrArg Host.Outcome.next (if_neg (by simp [low]))

theorem exec_resetNFallingEdge_extends {s : State} (inReset : s.power = .inReset) :
    exec .resetNFallingEdge s = .next { s with resetNLow := true } :=
  congrArg Host.Outcome.next (if_neg (by simp [inReset]))

theorem State.endReset_channel (s : State) (straps : Straps) (c : ChannelId) :
    (s.endReset straps).channel c = (s.channel c).endRetention := by
  have h : c = 0 ∨ c = 1 := by revert c; decide
  rcases h with rfl | rfl <;> rfl

theorem Channel.recordError_firstError (x : Channel) (e : FirstError) : (x.recordError e).firstError ≠ none := by
  unfold Channel.recordError
  split
  · simp
  · next first => simp [first]

/-- A channel that faulted during retention ends it FAULTED, with its first error record full (R113). -/
theorem Channel.endRetention_faulted {x : Channel} (fault : x.retentionFault = true) :
    x.endRetention.state = .faulted ∧ x.endRetention.firstError ≠ none := by
  rw [Channel.endRetention, if_pos fault]
  exact ⟨by rw [Channel.recordError_frame], Channel.recordError_firstError _ _⟩

theorem Channel.endRetention_sound {x : Channel} (sound : x.retentionFault = false) : x.endRetention = x := by
  rw [Channel.endRetention, if_neg (by simp [sound])]

/-- Settles O9: the two commands end the same reset, which brings each channel back by its own retention. -/
theorem bridgeResetEnds : Obligations.BridgeResetEnds := by
  refine ⟨fun s straps c inReset ends => ?_, fun s straps _ low => exec_bridgeResetEnd_held low straps,
    fun s inReset => exec_resetNFallingEdge_extends inReset⟩
  have e : exec c s = .next (({ s with resetNLow := false } : State).endReset straps) := by
    rcases ends with ⟨rfl, low⟩ | ⟨rfl, high⟩
    · exact exec_resetNRise_ends inReset low straps
    · rw [exec_bridgeResetEnd_ends inReset high, ← high]
  refine ⟨_, e, rfl, rfl, rfl, rfl, rfl, rfl, rfl, rfl, rfl, rfl, rfl, fun ch => ?_⟩
  rw [State.endReset_channel]
  exact ⟨Channel.endRetention_sound, Channel.endRetention_faulted⟩

end Sys2Proof.Machine
end

section
/-! SUPPORT. What every request answers before its owning rule decides (R177, Table 60), and the requests of the manager
role (R178 to R181). -/

namespace Sys2Proof.Machine

/-! ## Operands out of their range (R198) -/

theorem portOperand_eq_none_iff (b : Byte) : portOperand b = none ↔ 3 < b.toNat := by
  simp only [portOperand, dite_eq_right_iff, reduceCtorEq, imp_false]
  omega

theorem channelOperand_eq_none_iff (b : Byte) : channelOperand b = none ↔ 1 < b.toNat := by
  simp only [channelOperand, dite_eq_right_iff, reduceCtorEq, imp_false]
  omega

theorem extentOperand_eq_none_iff (b : Byte) : extentOperand b = none ↔ 63 < b.toNat := by
  simp only [extentOperand, dite_eq_right_iff, reduceCtorEq, imp_false]
  omega

theorem flagOperand_eq_none_iff (b : Byte) : flagOperand b = none ↔ 1 < b.toNat := by
  have zero : b = 0 ↔ b.toNat = 0 := BitVec.toNat_inj.symm
  have one : b = 1 ↔ b.toNat = 1 := BitVec.toNat_inj.symm
  simp only [flagOperand, zero, one]
  split
  · simp; omega
  · split
    · simp; omega
    · simp; omega

/-! ## The requests -/

/-- A request's command hands the request to an owning block, which answers BAD_REQUEST where check 1 or 2 of Table 60
fails, and NOT_HOLDER to a holder request of another path. -/
structure Decides (c : Instr) (path : MgmtPath) (kind : Byte) (act : State → State × Reply) : Prop where
  runs : ∀ s, exec c s = .next (s.request path kind act)
  bad : badRequest c = true → ∀ t, act t = t.badRequest
  other : badRequest c = false → holderRequest c = true → ∀ t : State, t.holder ≠ pathHolder path →
    act t = (t, .status .notHolder)

section
variable {c : Instr} {path : MgmtPath} {kind : Byte}

/-- A request that never fails checks 1 to 3. -/
theorem Decides.of_open {act : State → State × Reply} (runs : ∀ s, exec c s = .next (s.request path kind act))
    (good : badRequest c = false) (anyone : holderRequest c = false) : Decides c path kind act where
  runs := runs
  bad h := by cases good.symm.trans h
  other _ h := by cases anyone.symm.trans h

/-- A request open to every path, with an operand that check 1 tests. -/
theorem Decides.of_operand {act : State → State × Reply} (runs : ∀ s, exec c s = .next (s.request path kind act))
    (bad : badRequest c = true → ∀ t, act t = t.badRequest) (anyone : holderRequest c = false) :
    Decides c path kind act where
  runs := runs
  bad := bad
  other _ h := by cases anyone.symm.trans h

/-- A holder request that no operand makes bad. -/
theorem Decides.of_holder {act : State → State × Reply}
    (runs : ∀ s, exec c s = .next (s.request path kind fun t => t.holderOnly path act)) (good : badRequest c = false) :
    Decides c path kind fun t => t.holderOnly path act where
  runs := runs
  bad h := by cases good.symm.trans h
  other _ _ _ other := State.holderOnly_other other act

/-- A holder request with an operand that check 1 tests first. -/
theorem Decides.of_operandFirst {α : Type} {o : Option α} {act : State → State × Reply}
    (runs : ∀ s, exec c s = .next (s.request path kind act)) (bad : badRequest c = true ↔ o = none)
    (absent : o = none → ∀ t, act t = t.badRequest)
    (given : ∀ x, o = some x → ∀ t : State, t.holder ≠ pathHolder path → act t = (t, .status .notHolder)) :
    Decides c path kind act where
  runs := runs
  bad h := absent (bad.mp h)
  other good _ t other := by
    obtain ⟨x, hx⟩ := Option.ne_none_iff_exists'.mp fun none => by cases good.symm.trans (bad.mpr none)
    exact given x hx t other

end

/-- READ_PORT tests both its operands, and with the clear option the holder (R185). -/
theorem readPort_decides (path : MgmtPath) (port clear : Byte) :
    ∃ act, Decides (.readPort path port clear) path 0x13 act := by
  refine ⟨_, fun _ => rfl, fun bad t => ?_, fun good clears t other => ?_⟩
  · have absent : portOperand port = none ∨ flagOperand clear = none := by
      rw [portOperand_eq_none_iff, flagOperand_eq_none_iff]
      simpa [badRequest] using bad
    rcases absent with absent | absent
    · simp only [absent]
    · simp only [absent]
      cases portOperand port <;> rfl
  · obtain ⟨p, hp⟩ : ∃ p, portOperand port = some p := by
      refine Option.ne_none_iff_exists'.mp fun absent => ?_
      have := (portOperand_eq_none_iff port).mp absent
      simp [badRequest, this] at good
    obtain rfl : clear = 1 := of_decide_eq_true clears
    have flag : flagOperand 1 = some true := rfl
    simp only [hp, flag]
    exact State.holderOnly_other other _

theorem clearErrors_decides (path : MgmtPath) (selector : Byte) :
    ∃ act, Decides (.clearErrors path selector) path 0x24 act := by
  refine ⟨_, fun _ => rfl, fun bad t => ?_, fun good _ t other => ?_⟩
  · have high : 2 < selector.toNat := of_decide_eq_true bad
    split
    · omega
    · omega
    · omega
    · rfl
  · have low : ¬ 2 < selector.toNat := of_decide_eq_false good
    obtain ch0 | ch1 | both : selector.toNat = 0 ∨ selector.toNat = 1 ∨ selector.toNat = 2 := by omega
    · simp only [ch0, State.holderOnly_other other]
    · simp only [ch1, State.holderOnly_other other]
    · simp only [both, State.holderOnly_other other]

theorem setEligible_decides (path : MgmtPath) (value : Byte) :
    ∃ act, Decides (.setEligible path value) path 0x41 act := by
  refine ⟨_, .of_operand (fun _ => rfl) (fun bad t => ?_) rfl⟩
  have high : 15 < value.toNat ∨ path ≠ .i2c := by simpa [badRequest] using bad
  split
  · rfl
  · next low =>
    cases path with
    | i2c => simp [low] at high
    | inBand p => rfl

/-- Every request is decided by its owning block. -/
theorem request_decides {c : Instr} {path : MgmtPath} {kind : Byte} (h : requestOf c = some (path, kind)) :
    ∃ act, Decides c path kind act := by
  cases c with
  | readStatus => cases h; exact ⟨_, .of_open (fun _ => rfl) rfl rfl⟩
  | readLayout => cases h; exact ⟨_, .of_open (fun _ => rfl) rfl rfl⟩
  | readErrors => cases h; exact ⟨_, .of_open (fun _ => rfl) rfl rfl⟩
  | peekCompletion => cases h; exact ⟨_, .of_open (fun _ => rfl) rfl rfl⟩
  | claim => cases h; exact ⟨_, .of_open (fun _ => rfl) rfl rfl⟩
  | readExtent path x =>
    cases h
    refine ⟨_, .of_operand (fun _ => rfl) (fun bad t => ?_) rfl⟩
    simp only [(extentOperand_eq_none_iff x).mpr (of_decide_eq_true bad)]
  | readChannel path b =>
    cases h
    refine ⟨_, .of_operand (fun _ => rfl) (fun bad t => ?_) rfl⟩
    simp only [(channelOperand_eq_none_iff b).mpr (of_decide_eq_true bad)]
  | breakRole path =>
    cases h
    refine ⟨_, .of_operand (fun _ => rfl) (fun bad t => ?_) rfl⟩
    cases path with
    | i2c => cases bad
    | inBand p => rfl
  | bridgeReset path =>
    cases h
    refine ⟨_, .of_operand (fun _ => rfl) (fun bad t => ?_) rfl⟩
    cases path with
    | i2c => cases bad
    | inBand p => rfl
  | setEligible path value => cases h; exact setEligible_decides path value
  | readPort path port clear => cases h; exact readPort_decides path port clear
  | clearErrors path selector => cases h; exact clearErrors_decides path selector
  | submit => cases h; exact ⟨_, .of_holder (fun _ => rfl) rfl⟩
  | cancel => cases h; exact ⟨_, .of_holder (fun _ => rfl) rfl⟩
  | popCompletion => cases h; exact ⟨_, .of_holder (fun _ => rfl) rfl⟩
  | clearInterrupted => cases h; exact ⟨_, .of_holder (fun _ => rfl) rfl⟩
  | setLayout => cases h; exact ⟨_, .of_holder (fun _ => rfl) rfl⟩
  | clearLayout => cases h; exact ⟨_, .of_holder (fun _ => rfl) rfl⟩
  | poolCommit => cases h; exact ⟨_, .of_holder (fun _ => rfl) rfl⟩
  | poolTeardown => cases h; exact ⟨_, .of_holder (fun _ => rfl) rfl⟩
  | setTimers => cases h; exact ⟨_, .of_holder (fun _ => rfl) rfl⟩
  | release => cases h; exact ⟨_, .of_holder (fun _ => rfl) rfl⟩
  | abortRelocation path x =>
    cases h
    exact ⟨_, .of_operandFirst (fun _ => rfl) (decide_eq_true_iff.trans (extentOperand_eq_none_iff x).symm)
      (fun absent _ => by simp only [absent]) fun _ given _ other => by
        simp only [given, State.holderOnly_other other]⟩
  | channelOnline path b =>
    cases h
    exact ⟨_, .of_operandFirst (fun _ => rfl) (decide_eq_true_iff.trans (channelOperand_eq_none_iff b).symm)
      (fun absent _ => by simp only [absent]) fun _ given _ other => by
        simp only [given, State.holderOnly_other other]⟩
  | channelOffline path b =>
    cases h
    exact ⟨_, .of_operandFirst (fun _ => rfl) (decide_eq_true_iff.trans (channelOperand_eq_none_iff b).symm)
      (fun absent _ => by simp only [absent]) fun _ given _ other => by
        simp only [given, State.holderOnly_other other]⟩
  | portEnable path b =>
    cases h
    exact ⟨_, .of_operandFirst (fun _ => rfl) (decide_eq_true_iff.trans (portOperand_eq_none_iff b).symm)
      (fun absent _ => by simp only [absent]) fun _ given _ other => by
        simp only [given, State.holderOnly_other other]⟩
  | portDisable path b =>
    cases h
    exact ⟨_, .of_operandFirst (fun _ => rfl) (decide_eq_true_iff.trans (portOperand_eq_none_iff b).symm)
      (fun absent _ => by simp only [absent]) fun _ given _ other => by
        simp only [given, State.holderOnly_other other]⟩
  | portReset path b =>
    cases h
    exact ⟨_, .of_operandFirst (fun _ => rfl) (decide_eq_true_iff.trans (portOperand_eq_none_iff b).symm)
      (fun absent _ => by simp only [absent]) fun _ given _ other => by
        simp only [given, State.holderOnly_other other]⟩
  | setOffer path b =>
    cases h
    exact ⟨_, .of_operandFirst (fun _ => rfl) (decide_eq_true_iff.trans (portOperand_eq_none_iff b).symm)
      (fun absent _ => by simp only [absent]) fun _ given _ other => by
        simp only [given, State.holderOnly_other other]⟩
  | setPreserve path b =>
    cases h
    exact ⟨_, .of_operandFirst (fun _ => rfl) (decide_eq_true_iff.trans (flagOperand_eq_none_iff b).symm)
      (fun absent _ => by simp only [absent]) fun _ given _ other => by
        simp only [given, State.holderOnly_other other]⟩
  | mgmtBadRequest frame =>
    simp only [requestOf] at h
    split at h
    · cases h
    · next bad =>
      cases h
      exact ⟨_, .of_operand (fun s => congrArg Host.Outcome.next (if_neg bad)) (fun _ _ => rfl) rfl⟩
  | _ => cases h

/-! ## Requests that are not taken -/

section
variable {s : State} {p : PortId}

theorem State.hears.linked (hears : s.hears p) : (s.port p).state.linked = true := by
  obtain ⟨-, awaitOpen | opened | closing⟩ := hears
  · rw [awaitOpen]; rfl
  · rw [opened]; rfl
  · rw [closing]; rfl

theorem State.hears_of_linked (running : s.power = .running) (linked : (s.port p).state.linked = true) : s.hears p := by
  refine ⟨running, ?_⟩
  cases state : (s.port p).state <;> simp_all [PortState.linked]

theorem State.request_busy {k : Byte} (hears : s.hears p) (slot : s.slot p = some k) (kind : Byte)
    (act : State → State × Reply) :
    s.request (.inBand p) kind act = s.send p (.mgmtResponse { kind := kind, status := .busy, data := [] }) := by
  have busy : s.reception (.inBand p) = .busy := by simp [State.reception, hears.1, hears.linked, slot]
  simp [State.request, busy]

theorem State.reception_inProgress {k : Byte} (buffer : s.i2c = .inProgress k) : s.reception .i2c = .notReceived := by
  simp [State.reception, buffer]

theorem State.reception_unheard (unheard : ¬ s.hears p) : s.reception (.inBand p) = .notReceived := by
  by_cases running : s.power = .running
  · have silent : (s.port p).state.linked = false :=
      Bool.eq_false_iff.mpr fun linked => unheard (State.hears_of_linked running linked)
    simp [State.reception, silent]
  · exact State.reception_idle running _

end

/-- Settles O43: by what its owning block answers, and by its reception. -/
theorem requestsTurnedAway : Obligations.RequestsTurnedAway := by
  intro c s path kind request
  obtain ⟨act, runs, bad, other⟩ := request_decides request
  rw [runs s]
  refine ⟨fun taken isBad => congrArg _ ?bad, fun taken good holder notOurs => congrArg _ ?notHolder,
    fun p k own hears slot => congrArg _ ?busy, fun k own buffer => congrArg _ ?inProgress,
    fun idle => congrArg _ (State.request_idle idle _ _ _), fun p own unheard => congrArg _ ?unheard⟩
  case bad => exact State.request_unchanged taken kind .badRequest [] (bad isBad _)
  case notHolder => exact State.request_unchanged taken kind .notHolder [] (other good holder _ (by simpa using notOurs))
  case busy => subst own; exact State.request_busy hears slot kind act
  case inProgress => subst own; exact State.request_notReceived (State.reception_inProgress buffer) kind act
  case unheard => subst own; exact State.request_notReceived (State.reception_unheard unheard) kind act

end Sys2Proof.Machine
end

section
/-! SUPPORT. CLAIM, RELEASE, BREAK and SET_ELIGIBLE (R178 to R181). -/

namespace Sys2Proof.Machine

/-! ## What a request leaves beside the role -/

section
variable (s : State) (path : MgmtPath) (kind : Byte)

theorem State.takeRequest_withHolder (h : Holder) :
    ({ s with holder := h } : State).takeRequest path kind = { s.takeRequest path kind with holder := h } := by
  cases path <;> rfl

theorem State.takeRequest_withEligible (h : Holder) (set : BitVec 4) :
    ({ s with holder := h, eligible := set } : State).takeRequest path kind =
      { s.takeRequest path kind with holder := h, eligible := set } := by
  cases path <;> rfl

theorem State.takeRequest_withHolderFresh (h : Holder) (n : Nat) :
    ({ s with holder := h, fresh := n } : State).takeRequest path kind =
      { s.takeRequest path kind with holder := h, fresh := n } := by
  cases path <;> rfl

/-- What a port sends does not touch the buffer that an I2C request marked. -/
theorem State.sendAll_takeRequest_i2c (p : PortId) (pkts : List OutPacket) :
    (s.sendAll p pkts).takeRequest .i2c kind = (s.takeRequest .i2c kind).sendAll p pkts := by
  cases linked : (s.port p).state.linked with
  | false =>
    rw [State.sendAll_unlinked linked]
    exact (State.sendAll_unlinked (s := s.takeRequest .i2c kind) linked pkts).symm
  | true =>
    rw [State.sendAll_linked linked]
    exact (State.sendAll_linked (s := s.takeRequest .i2c kind) linked pkts).symm

/-- Nor does a notice. -/
theorem State.offerNotice_takeRequest_i2c (p : PortId) (body : NoticeBody) :
    (s.offerNotice p body).takeRequest .i2c kind = (s.takeRequest .i2c kind).offerNotice p body := by
  by_cases opened : (s.port p).state = .opened
  · by_cases room : (s.noticeQueue p).notices.length < Config.noticeQueueSize
    · rw [State.offerNotice, if_pos opened, if_pos room, State.send, State.sendAll_takeRequest_i2c]
      exact ((if_pos opened).trans (if_pos room)).symm
    · cases pending : body.isPending with
      | false =>
        have stays : ¬ body.isPending = true := by simp [pending]
        rw [State.offerNotice, if_pos opened, if_neg room, if_neg stays]
        exact ((if_pos opened).trans ((if_neg room).trans (if_neg stays))).symm
      | true =>
        rw [State.offerNotice, if_pos opened, if_neg room, if_pos pending]
        exact ((if_pos opened).trans ((if_neg room).trans (if_pos pending))).symm
  · rw [State.offerNotice, if_neg opened]
    exact (if_neg opened).symm

end

/-! ## CLAIM (R178) -/

section
variable {s : State} {path : MgmtPath}

theorem State.claimFor_free (free : s.holder = .none) :
    s.claimFor path = ({ s with holder := pathHolder path }, .status .ok) := if_pos free

theorem State.claimFor_own (own : s.holder = pathHolder path) : s.claimFor path = (s, .status .ok) := by
  have taken : s.holder ≠ .none := by rw [own]; cases path <;> simp [pathHolder]
  have holds : s.isHolder path = true := by simp [State.isHolder, own]
  rw [State.claimFor, if_neg taken, if_pos holds]

theorem State.claimFor_held (taken : s.holder ≠ .none) (other : s.holder ≠ pathHolder path) :
    s.claimFor path = (s, .now .held [s.holder.code]) := by
  simp [State.claimFor, State.isHolder, State.heldReply, taken, other]

section
variable (received : s.receives path)
  (may : ∀ p, path = .inBand p → (s.port p).state = .opened ∧ s.eligible.getLsbD p.val = true)
include received may

/-- A path that may claim: I2C, or an OPEN and eligible port. -/
theorem exec_claim_may : exec (.claim path) s = .next (s.request path 0x38 fun t => t.claimFor path) := by
  cases path with
  | i2c => rfl
  | inBand p =>
    obtain ⟨opened, eligible⟩ := may p rfl
    refine congrArg Host.Outcome.next ?_
    rw [State.request_taken received, State.request_taken received]
    simp only [State.takeRequest_port, State.takeRequest_eligible, opened, eligible, ne_eq, not_true_eq_false,
      if_false, Bool.true_eq_false]

theorem exec_claim_free (free : s.holder = .none) : exec (.claim path) s =
    .next (({ s with holder := pathHolder path } : State).answered path 0x38 .ok []) := by
  rw [exec_claim_may received may]
  refine congrArg Host.Outcome.next (State.request_changed received ?_)
  rw [State.claimFor_free (by simpa using free), State.takeRequest_withHolder s path _ (pathHolder path)]

theorem exec_claim_own (own : s.holder = pathHolder path) :
    exec (.claim path) s = .next (s.answered path 0x38 .ok []) := by
  rw [exec_claim_may received may]
  exact congrArg Host.Outcome.next (State.request_unchanged received _ _ _ (State.claimFor_own (by simpa using own)))

theorem exec_claim_held (taken : s.holder ≠ .none) (other : s.holder ≠ pathHolder path) :
    exec (.claim path) s = .next (s.answered path 0x38 .held [s.holder.code]) := by
  rw [exec_claim_may received may]
  refine congrArg Host.Outcome.next (State.request_unchanged received _ _ _ ?_)
  rw [State.claimFor_held (by simpa using taken) (by simpa using other), State.takeRequest_holder]

end

end

section
variable {s : State} {p : PortId} (received : s.receives (.inBand p))
include received

theorem exec_claim_notOpen (closed : (s.port p).state ≠ .opened) :
    exec (.claim (.inBand p)) s = .next (s.answered (.inBand p) 0x38 .wrongState []) :=
  congrArg Host.Outcome.next <| State.request_unchanged received _ _ _ <| by simp [closed]

theorem exec_claim_notEligible (opened : (s.port p).state = .opened) (barred : s.eligible.getLsbD p.val = false) :
    exec (.claim (.inBand p)) s = .next (s.answered (.inBand p) 0x38 .notEligible []) :=
  congrArg Host.Outcome.next <| State.request_unchanged received _ _ _ <| by
    simp only [State.takeRequest_port, State.takeRequest_eligible, opened, barred, ne_eq, not_true_eq_false,
      if_false, if_true]

end

/-! ## RELEASE (R179) -/

theorem exec_release {s : State} {path : MgmtPath} (m : s.manages path) :
    exec (.release path) s = .next (({ s with holder := .none } : State).answered path 0x39 .ok []) :=
  congrArg Host.Outcome.next <| State.holderRequest_changed m <| by
    rw [State.takeRequest_withHolder s path _ .none]

/-! ## BREAK (R180) and SET_ELIGIBLE (R181) -/

theorem Holder.withSet_port (p : PortId) (v : Byte) :
    (Holder.port p).withSet (v.truncate 4) = if v.getLsbD p.val then .port p else .none := by
  simp [Holder.withSet, p.isLt]

section
variable {s : State} (received : s.receives .i2c)
include received

theorem exec_breakRole_port {p : PortId} (held : s.holder = .port p) : exec (.breakRole .i2c) s =
    .next ((({ s with holder := .i2c } : State).offerNotice p .roleLost).answered .i2c 0x40 .ok
      [BitVec.ofNat 8 p.val]) :=
  congrArg Host.Outcome.next <| State.request_changed received <| by
    rw [State.offerNotice_takeRequest_i2c, State.takeRequest_withHolder s .i2c _ .i2c]
    simp only [State.takeRequest_holder, held]
    rfl

/-- Where no port is displaced the byte is a free value (log 23). -/
theorem exec_breakRole_nobody (unheld : s.holder = .none ∨ s.holder = .i2c) : exec (.breakRole .i2c) s =
    .next (({ s with holder := .i2c, fresh := s.fresh + 1 } : State).answered .i2c 0x40 .ok
      [Config.nobodyDisplaced s.fresh]) :=
  congrArg Host.Outcome.next <| State.request_changed received <| by
    rw [State.takeRequest_withHolderFresh s .i2c _ .i2c]
    rcases unheld with free | own
    · simp only [State.takeRequest_holder, free, State.takeRequest_fresh]
    · simp only [State.takeRequest_holder, own, State.takeRequest_fresh]

variable {v : Byte} (low : v.toNat ≤ 15)
include low

theorem exec_setEligible_free (free : s.holder = .none) :
    exec (.setEligible .i2c v) s = .next (s.answered .i2c 0x41 .notHolder []) :=
  congrArg Host.Outcome.next <| State.request_unchanged received _ _ _ <| by simp [Nat.not_lt.mpr low, free]

theorem exec_setEligible_held (taken : s.holder ≠ .none) : exec (.setEligible .i2c v) s =
    .next (({ s with eligible := v.truncate 4, holder := s.holder.withSet (v.truncate 4) } : State).answered
      .i2c 0x41 .ok []) :=
  congrArg Host.Outcome.next <| State.request_changed received <| by
    simp [Nat.not_lt.mpr low, taken, State.takeRequest_withEligible]

end

/-- Settles O51: CLAIM by who may claim and who holds the role, then the requests of I2C, then RELEASE. -/
theorem managerRole : Obligations.ManagerRole := by
  refine ⟨fun s received => ?i2c, fun s p received => ?inBand, fun s path m => exec_release m⟩
  case i2c =>
    have may : ∀ p, MgmtPath.i2c = .inBand p → (s.port p).state = .opened ∧ s.eligible.getLsbD p.val = true :=
      fun p h => by cases h
    refine ⟨exec_claim_free received may, exec_claim_own received may, fun p held => ?_,
      fun unheld => ⟨_, exec_breakRole_nobody received unheld⟩, fun p held => exec_breakRole_port received held,
      fun v low free => exec_setEligible_free received low free,
      fun v low taken => ⟨_, exec_setEligible_held received low taken, fun own => ?_, fun p held => ?_⟩⟩
    · rw [exec_claim_held received may (by simp [held]) (by simp [held, pathHolder]), held]
      rfl
    · rw [own]; rfl
    · rw [held]; exact Holder.withSet_port p v
  case inBand =>
    refine ⟨exec_claim_notOpen received, exec_claim_notEligible received, fun opened eligible => ?_⟩
    have may : ∀ q, MgmtPath.inBand p = .inBand q → (s.port q).state = .opened ∧ s.eligible.getLsbD q.val = true :=
      fun q own => MgmtPath.inBand.inj own ▸ ⟨opened, eligible⟩
    refine ⟨exec_claim_free received may, exec_claim_own received may, fun held => ?_, fun q held ne => ?_⟩
    · rw [exec_claim_held received may (by simp [held]) (by simp [held, pathHolder]), held]
      rfl
    · rw [exec_claim_held received may (by simp [held]) (by simp [held, pathHolder, ne]), held]
      rfl

end Sys2Proof.Machine
end

section
/-! SUPPORT. `KeepsForm` says that the waiting commands stay as they are and that no contents leave the canonical form. The
shared operations have it: most touch no channel, and those that write a line do so by the operations of `Memory`. -/

namespace Sys2Proof.Machine

/-- From `s` to `t` the commands that wait stay as they are, and contents in canonical form stay in it. -/
def KeepsForm (s t : State) : Prop :=
  t.pending = s.pending ∧ ∀ c : ChannelId, (s.channel c).memory.wf = true → (t.channel c).memory.wf = true

theorem KeepsForm.refl (s : State) : KeepsForm s s := ⟨rfl, fun _ w => w⟩

theorem KeepsForm.memoryLaw {s t : State} (k : KeepsForm s t) (l : s.memoryLaw) : t.memoryLaw := fun c => k.2 c (l c)

theorem KeepsForm.ite {s t u : State} {P : Prop} [Decidable P] (h : KeepsForm s t) (k : KeepsForm s u) :
    KeepsForm s (if P then t else u) := by
  split
  · exact h
  · exact k

/-- The same of a request's state, beside its reply. -/
theorem KeepsForm.iteFst {s : State} {x y : State × Reply} {P : Prop} [Decidable P] (h : KeepsForm s x.1)
    (k : KeepsForm s y.1) : KeepsForm s (if P then x else y).1 := by
  split
  · exact h
  · exact k

/-! ## Contents that an operation on a channel writes -/

theorem sameButSupply.memory {a b : Channel} (h : sameButSupply a b) : a.memory = b.memory := by rw [h.1]

theorem Channel.recordError_memory (x : Channel) (e : FirstError) : (x.recordError e).memory = x.memory := by
  rw [Channel.recordError_frame]

theorem Channel.dropRequester_memory (x : Channel) (p : PortId) : (x.dropRequester p).memory = x.memory := by
  unfold Channel.dropRequester
  split
  · split <;> rfl
  · rfl

theorem Channel.endRetention_memory (x : Channel) : x.endRetention.memory = x.memory := by
  unfold Channel.endRetention
  split
  · exact Channel.recordError_memory _ _
  · rfl

/-- A retained channel's contents are cut, and those of any other are kept or dropped (R112). -/
theorem Channel.wf_atBridgeReset {x : Channel} (w : x.memory.wf = true) (preserve : Bool) (n : Nat) :
    (x.atBridgeReset preserve n).memory.wf = true := by
  cases preserve with
  | false => exact Memory.wf_undefinedContents
  | true =>
    simp only [Channel.atBridgeReset, if_true]
    cases x.state with
    | online => exact Memory.wf_cut w n [] x.queue
    | detecting => exact Memory.wf_undefinedContents
    | filling => exact Memory.wf_undefinedContents
    | offline => exact w
    | faulted => exact w

section
variable {s t : State} (k : KeepsForm s t)
include k

/-! ## Operations that touch no channel -/

/-- What changes neither the channels nor the waiting commands. -/
theorem KeepsForm.same {u : State} (h : (u.pending, u.channels) = (t.pending, t.channels)) : KeepsForm s u := by
  obtain ⟨pending, channels⟩ := Prod.mk.inj h
  refine ⟨pending.trans k.1, fun c w => ?_⟩
  rw [State.channel, channels]
  exact k.2 c w

theorem KeepsForm.sendAll (p : PortId) (pkts : List OutPacket) : KeepsForm s (t.sendAll p pkts) := by
  obtain ⟨ports, e, -⟩ := t.sendAll_frame p pkts
  rw [e]
  exact k

theorem KeepsForm.send (p : PortId) (pkt : OutPacket) : KeepsForm s (t.send p pkt) := k.sendAll p [pkt]

theorem KeepsForm.offerNotice (p : PortId) (body : NoticeBody) : KeepsForm s (t.offerNotice p body) := by
  obtain ⟨ports, queues, e, -⟩ := t.offerNotice_frame p body
  rw [e]
  exact k

theorem KeepsForm.offerNotices (l : List (PortId × NoticeBody)) : KeepsForm s (t.offerNotices l) := by
  obtain ⟨ports, queues, e, -⟩ := t.offerNotices_frame l
  rw [e]
  exact k

theorem KeepsForm.postRecord (r : CompletionRecord) : KeepsForm s (t.postRecord r) := by
  obtain ⟨ports, queues, e, -⟩ := t.postRecord_frame r
  rw [e]
  exact k

theorem KeepsForm.endHead (ch : ChangeRecord) (o : RecordOutcome) (l : List (PortId × NoticeBody)) :
    KeepsForm s (t.endHead ch o l) := by
  obtain ⟨ports, queues, e, -⟩ := t.endHead_frame ch o l
  rw [e]
  exact k

theorem KeepsForm.activate (x : ExtentId) (f : ExtentBody → ExtentBody) : KeepsForm s (t.activate x f) := by
  obtain ⟨extents, e⟩ := t.activate_frame x f
  rw [e]
  exact k

theorem KeepsForm.finishCopy (r : CompletionRecord) : KeepsForm s (t.finishCopy r) :=
  .ite ((k.same (by rfl)).postRecord r) k

theorem KeepsForm.applyFates (p : PortId) (f : Entry → Fate) : KeepsForm s (t.applyFates p f) := by
  obtain ⟨ports, e, -⟩ := t.applyFates_frame p f
  rw [e]
  exact k

theorem KeepsForm.applyFatesAll (f : Entry → Fate) : KeepsForm s (t.applyFatesAll f) := by
  obtain ⟨ports, trackers, e, -⟩ := t.applyFatesAll_frame f
  rw [e]
  exact k

theorem KeepsForm.respond (path : MgmtPath) (r : MgmtResponse) : KeepsForm s (t.respond path r) := by
  obtain ⟨ports, i2c, slots, e, -⟩ := t.respond_frame path r
  rw [e]
  exact k

theorem KeepsForm.freeRole (p : PortId) : KeepsForm s (t.freeRole p) := .ite k k

/-! ## Frames of a command -/

theorem KeepsForm.whenRunning {f : State → State} (h : KeepsForm s (f t)) : KeepsForm s (t.whenRunning f) := .ite h k

theorem KeepsForm.onPacket (p : PortId) {f : State → State} (h : KeepsForm s (f t)) : KeepsForm s (t.onPacket p f) := by
  rcases t.onPacket_cases p f with e | e <;> rw [e]
  · exact k
  · exact h

theorem KeepsForm.request (path : MgmtPath) (kind : Byte) {act : State → State × Reply}
    (h : ∀ u, KeepsForm s u → KeepsForm s (act u).1) : KeepsForm s (t.request path kind act) := by
  unfold State.request
  split
  · exact k
  · cases path with
    | i2c => exact k
    | inBand p => exact k.send p _
  · obtain ⟨i2c, slots, e⟩ := t.takeRequest_frame path kind
    have done := h (t.takeRequest path kind) (k.same (by rw [e]))
    generalize act (t.takeRequest path kind) = result at done
    obtain ⟨u, reply⟩ := result
    cases reply with
    | now st data => exact done.respond path _
    | later => exact done
    | nothing => exact done

theorem KeepsForm.holderOnly (path : MgmtPath) {act : State → State × Reply} (h : KeepsForm s (act t).1) :
    KeepsForm s (t.holderOnly path act).1 := .iteFst h k

/-! ## Handovers and changes -/

theorem KeepsForm.commitHandover (h : Handover) : KeepsForm s (t.commitHandover h) := (k.activate _ _).endHead _ _ _

theorem KeepsForm.rollback (h : Handover) (o : RecordOutcome) : KeepsForm s (t.rollback h o) :=
  (k.activate _ _).endHead _ _ _

theorem KeepsForm.enterDrain (h : Handover) (c : Confirmation) : KeepsForm s (t.enterDrain h c) :=
  .ite ((k.same (by rfl)).commitHandover _) k

theorem KeepsForm.offerPending (h : Handover) : KeepsForm s (t.offerPending h) :=
  .ite ((k.same (by rfl)).offerNotice _ _) k

theorem KeepsForm.confirmByLoss (p : PortId) : KeepsForm s (t.confirmByLoss p) := by
  obtain ⟨_, _, _, _, _, _, _, e, -⟩ := t.confirmByLoss_frame p
  rw [e]
  exact k

theorem KeepsForm.forceDrain (h : Handover) : KeepsForm s (t.forceDrain h) :=
  have aborted := k.applyFates h.losing (Entry.onForceAbort h.extent h.writesOnly)
  .ite ((aborted.same (by rfl)).commitHandover _) aborted

theorem KeepsForm.startHandover (ch : ChangeRecord) (x : ExtentId) (losing : PortId) (kind : HandoverKind)
    (confirm force : Bool) : KeepsForm s (t.startHandover ch x losing kind confirm force) := by
  have marked : KeepsForm s (t.markChanging x ch.id) := by
    unfold State.markChanging
    cases (t.extent x).body? <;> exact k
  exact .ite (.ite (marked.offerPending _) (marked.enterDrain _ _)) (marked.enterDrain _ _)

theorem KeepsForm.commitImmediate (ch : ChangeRecord) (x : ExtentId) (f : ExtentBody → ExtentBody)
    (l : Generation → List (PortId × NoticeBody)) : KeepsForm s (t.commitImmediate ch x f l) :=
  (k.activate x f).endHead _ _ _

theorem KeepsForm.applyRights (ch : ChangeRecord) (x : ExtentId) (p : PortId) (r : Rights) (confirm force : Bool) :
    KeepsForm s (t.applyRights ch x p r confirm force) := by
  unfold State.applyRights
  cases t.mappingOf x p with
  | none => exact k
  | some m =>
    refine .ite (k.endHead _ _ _) ?_
    cases r with
    | readWrite => exact k.commitImmediate _ _ _ _
    | read => exact k.startHandover _ _ _ _ _ _

theorem KeepsForm.startRelocation (ch : ChangeRecord) (x : ExtentId) (base : Nat) :
    KeepsForm s (t.startRelocation ch x base) := by
  unfold State.startRelocation
  cases (t.extent x).body? with
  | none => exact k
  | some b => exact (k.same (by rfl)).endHead _ _ _

theorem KeepsForm.startHead {act : State → ChangeRecord → State} (h : ∀ ch, KeepsForm s (act t ch)) :
    KeepsForm s (t.startHead act) := by
  refine k.whenRunning ?_
  cases t.startable with
  | none => exact k
  | some ch => exact h ch

theorem KeepsForm.validated (ch : ChangeRecord) (checks : List (Bool × RejectReason)) {pass : State → State}
    (h : KeepsForm s (pass t)) : KeepsForm s (t.validated ch checks pass) := by
  unfold State.validated
  cases firstFailure checks with
  | none => exact h
  | some reason => exact k.endHead ch _ _

theorem KeepsForm.reportAck (p : PortId) (removed : List Notice) : KeepsForm s (t.reportAck p removed) := by
  unfold State.reportAck
  cases t.active with
  | none => exact k
  | some h => exact .ite (k.enterDrain _ _) (.ite k k)

theorem KeepsForm.cancelWaiting (id : Nat) : KeepsForm s (t.cancelWaiting id).1 := by
  unfold State.cancelWaiting
  cases t.waitingChanges.find? fun ch => decide (ch.id = id) with
  | none => exact k
  | some ch => exact .iteFst ((k.same (by rfl)).postRecord _) k

/-! ## Relocations -/

theorem KeepsForm.commitRelocation (r : Relocation) : KeepsForm s (t.commitRelocation r) :=
  (k.activate _ _).finishCopy _

theorem KeepsForm.endAbandon (r : Relocation) (reason : AbandonReason) : KeepsForm s (t.endAbandon r reason) :=
  (k.activate _ _).finishCopy _

theorem KeepsForm.copyWriteDone (n : PairNumber) : KeepsForm s (t.copyWriteDone n) := by
  have finished {u : State} (h : KeepsForm s u) : KeepsForm s u.finishIfCopied := by
    unfold State.finishIfCopied
    cases u.copyEngine with
    | running r => exact .ite (.ite h ((h.same (by rfl)).commitRelocation _)) h
    | _ => exact h
  unfold State.copyWriteDone
  cases t.copyEngine with
  | running r => exact finished (k.same (by rfl))
  | _ => exact k

theorem KeepsForm.copyOnFaultReport (c : ChannelId) : KeepsForm s (t.copyOnFaultReport c) := by
  unfold State.copyOnFaultReport
  cases t.copyEngine with
  | running r => exact .ite k k
  | _ => exact k

/-! ## Packets and configuration words -/

theorem KeepsForm.refuse (p : PortId) (kind : ReqKind) (tag : Byte) (reason : AbortReason) :
    KeepsForm s (t.refuse p kind tag reason) := by
  unfold State.refuse
  cases reason.protocolError? with
  | some error => exact KeepsForm.send (t := t.protocolError p error (some tag)) k p _
  | none => exact k.send p _

theorem KeepsForm.takeData (p : PortId) (tag half : Byte) (d : HalfData) : KeepsForm s (t.takeData p tag half d) := by
  unfold State.takeData
  cases countedEntry (t.tracker p) .write tag with
  | none => exact k
  | some e => exact .ite k k

theorem KeepsForm.completeClose (p : PortId) : KeepsForm s (t.completeClose p) := .ite k k

theorem KeepsForm.writePortClose (p : PortId) : KeepsForm s (t.writePortClose p) := by
  have closing : KeepsForm s ((t.setPort p { t.port p with state := .closing }).send p (.configDone Word.portClose)) :=
    KeepsForm.send (t := t.setPort p { t.port p with state := .closing }) k p _
  exact .ite ((((closing.same (by rfl)).freeRole p).confirmByLoss p).completeClose p) (k.send p _)

theorem KeepsForm.writeWindowAccept (p : PortId) (value : BitVec 64) : KeepsForm s (t.writeWindowAccept p value) :=
  .ite (.ite ((k.same (by rfl)).send p _) (k.send p _)) (k.send p _)

theorem KeepsForm.writePortOpen (p : PortId) (value : BitVec 64) : KeepsForm s (t.writePortOpen p value) := by
  refine .ite ?_ (k.send p _)
  cases t.openRefusal p value with
  | some reason => exact k.send p _
  | none => exact (k.same (by rfl)).send p _

theorem KeepsForm.configAccess (p : PortId) (access : ConfigAccess) : KeepsForm s (t.configAccess p access) := by
  cases access with
  | read word =>
    simp only [State.configAccess]
    cases t.configWord p word <;> exact k.send p _
  | write word value =>
    simp only [State.configAccess]
    split
    · exact k.send p _
    · exact k.send p _
    · exact k.send p _
    · exact k.writeWindowAccept p value
    · exact k.writePortOpen p value
    · exact k.writePortClose p
    · exact k.send p _

/-! ## Channels -/

/-- A channel is written anew: its contents are to stay in canonical form. -/
theorem KeepsForm.setChannel (c : ChannelId) {x : Channel} (h : (t.channel c).memory.wf = true → x.memory.wf = true) :
    KeepsForm s (t.setChannel c x) := by
  refine ⟨k.1, fun d w => ?_⟩
  rw [State.setChannel_channel]
  split
  · next same => exact h (same ▸ k.2 d w)
  · exact k.2 d w

/-- Each channel holds the contents it held. -/
theorem KeepsForm.sameMemory {u : State} (pending : u.pending = t.pending)
    (memory : ∀ c : ChannelId, (u.channel c).memory = (t.channel c).memory) : KeepsForm s u :=
  ⟨pending.trans k.1, fun c w => (memory c).symm ▸ k.2 c w⟩

theorem KeepsForm.admitEntry (c : ChannelId) (p : PortId) (e : Entry) : KeepsForm s (t.admitEntry c p e) :=
  k.sameMemory (by rw [State.admitEntry_frame]) fun d => by
    rw [State.admitEntry_channel, State.enqueueEntry_channel_frame]

theorem KeepsForm.admitPair (c : ChannelId) (x : CopyCandidate) (n : PairNumber) : KeepsForm s (t.admitPair c x n) :=
  k.sameMemory (by rw [State.admitPair_frame]) fun d => by rw [State.admitPair_channel_frame]

theorem KeepsForm.countOutcome (c : ChannelId) (e : EccOutcome) (line : Nat) (origin : Position) :
    KeepsForm s (t.countOutcome c e line origin) := by
  cases e with
  | clean => exact k
  | poisoned => exact k
  | corrected => exact k.setChannel c id
  | uncorrectable => exact k.setChannel c fun w => (Channel.recordError_memory _ _).symm ▸ w

theorem KeepsForm.copyReadDone (n : PairNumber) (content : LineContent) : KeepsForm s (t.copyReadDone n content) := by
  unfold State.copyReadDone
  cases t.copyEngine with
  | running r =>
    dsimp only
    cases r.pairs.find? fun x => decide (x.number = n) with
    | none => exact k
    | some x => exact (k.same (by rfl)).setChannel x.dst.channel id
  | _ => exact k

/-- The aborted queue's own channel holds the cut contents, the other one what it held (R107). -/
theorem KeepsForm.abortQueue (c : ChannelId) : KeepsForm s (t.abortQueue c) := by
  obtain ⟨ports, trackers, channels, copyEngine, fresh, e, -, -, own, other⟩ := t.abortQueue_frame c
  rw [e]
  refine ⟨k.1, fun d w => ?_⟩
  have held := k.2 d w
  show channels[d].memory.wf = true
  by_cases same : d = c
  · rw [same, own]
    exact Memory.wf_cut (same ▸ held) t.fresh [] _
  · rw [(other d same).memory]
    exact held

theorem KeepsForm.takeOffline (c : ChannelId) : KeepsForm s (t.takeOffline c) :=
  (k.abortQueue c).setChannel c fun _ => Memory.wf_undefinedContents

theorem KeepsForm.reportFault (c : ChannelId) : KeepsForm s (t.reportFault c) :=
  (((k.applyFatesAll _).copyOnFaultReport c).offerNotices _).setChannel c fun w =>
    (Channel.recordError_memory _ _).symm ▸ w

theorem KeepsForm.enterFaulted (c : ChannelId) : KeepsForm s (t.enterFaulted c) := by
  have faulted : KeepsForm s (t.setChannel c { t.channel c with state := .faulted }) := k.setChannel c id
  exact (faulted.abortQueue c).reportFault c

theorem KeepsForm.answerDetection (requester : Option MgmtPath) (st : MgmtStatus) (data : List Byte) :
    KeepsForm s (t.answerDetection requester st data) := by
  cases requester with
  | none => exact k
  | some path => exact k.respond path _

theorem KeepsForm.endDetection (c : ChannelId) (fromFaulted : Bool) (requester : Option MgmtPath)
    (found : Option (Vector (Option Nat) 4)) : KeepsForm s (t.endDetection c fromFaulted requester found) := by
  cases found with
  | none => exact (k.enterFaulted c).answerDetection _ _ _
  | some slots =>
    exact .ite ((k.setChannel c (by exact id)).answerDetection _ _ _)
      (.ite ((k.setChannel c (by exact id)).answerDetection _ _ _)
        ((k.setChannel c (by exact id)).answerDetection _ _ _))

theorem KeepsForm.faultEvent (c : ChannelId) : KeepsForm s (t.faultEvent c) := by
  unfold State.faultEvent
  cases (t.channel c).state with
  | offline => exact k
  | faulted => exact k
  | filling => exact k.enterFaulted c
  | online => exact k.enterFaulted c
  | detecting ff req => exact (k.enterFaulted c).answerDetection _ _ _

/-! ## Port resets -/

theorem KeepsForm.clearSlot (p : PortId) : KeepsForm s (t.clearSlot p) :=
  have dropped {u : State} (h : KeepsForm s u) (c : ChannelId) :
      KeepsForm s (u.setChannel c ((u.channel c).dropRequester p)) :=
    h.setChannel c fun w => (Channel.dropRequester_memory _ p).symm ▸ w
  dropped (dropped (k.same (by rfl)) 0) 1

theorem KeepsForm.resetPort (p : PortId) (target : PortState) (clear : Bool) :
    KeepsForm s (t.resetPort p target clear) :=
  ((((k.same (by rfl)).freeRole p).clearSlot p).confirmByLoss p).applyFates p _

/-- A port disabled or reset by request: its counters are cleared, and unless it was DISABLED it is reset (R61). -/
theorem KeepsForm.clearOrReset (p : PortId) (target : PortState) :
    KeepsForm s (if (t.port p).state = .disabled then t.clearPort p else t.resetPort p target true) :=
  .ite k (k.resetPort p target true)

/-! ## Power and reset -/

theorem KeepsForm.atPowerOn (power : Power) (straps : Straps) : KeepsForm s (t.atPowerOn power straps) :=
  ⟨k.1, fun c _ => State.reset_memory_wf c⟩

theorem KeepsForm.beginReset (cause : ResetCause) : KeepsForm s (t.beginReset cause) :=
  ⟨k.1, Fin.forall_fin_two.mpr ⟨fun w => Channel.wf_atBridgeReset (k.2 0 w) _ _,
    fun w => Channel.wf_atBridgeReset (k.2 1 w) _ _⟩⟩

theorem KeepsForm.endReset (straps : Straps) : KeepsForm s (t.endReset straps) :=
  k.sameMemory rfl fun c => by rw [State.endReset_channel, Channel.endRetention_memory]

end

end Sys2Proof.Machine
end

section
/-! SUPPORT. Every command leaves the waiting commands alone and keeps the contents of the channels canonical. -/

namespace Sys2Proof.Machine

/-- The next state that an outcome gives keeps the form; a stop gives none. -/
def NextKeepsForm (s : State) (o : Host.Outcome State Fault Refusal) : Prop := ∀ t, o = .next t → KeepsForm s t

section
variable {s t : State} (k : KeepsForm s t)
include k

theorem NextKeepsForm.next : NextKeepsForm s (.next t) := by rintro u ⟨rfl⟩; exact k

/-! ## The Change Engine -/

theorem KeepsForm.execCreate : NextKeepsForm s (execCreate t) := by
  refine .next (k.startHead fun ch => ?_)
  cases ch.op with
  | create => exact k.validated ch _ ((k.same (by rfl)).endHead ch _ _)
  | _ => exact k

theorem KeepsForm.execRetire : NextKeepsForm s (execRetire t) := by
  refine .next (k.startHead fun ch => ?_)
  cases ch.op with
  | retire => exact k.validated ch _ ((k.same (by rfl)).endHead ch _ _)
  | _ => exact k

theorem KeepsForm.execMap : NextKeepsForm s (execMap t) := by
  refine .next (k.startHead fun ch => ?_)
  cases ch.op with
  | map => exact k.validated ch _ (k.commitImmediate ch _ _ _)
  | _ => exact k

theorem KeepsForm.execSetShare : NextKeepsForm s (execSetShare t) := by
  refine .next (k.startHead fun ch => ?_)
  cases ch.op with
  | setShare => exact k.validated ch _ (k.commitImmediate ch _ _ _)
  | _ => exact k

theorem KeepsForm.execSetWindow : NextKeepsForm s (execSetWindow t) := by
  refine .next (k.startHead fun ch => ?_)
  cases ch.op with
  | setWindow => exact k.validated ch _ ((k.same (by rfl)).endHead ch _ _)
  | _ => exact k

theorem KeepsForm.execSetRights : NextKeepsForm s (execSetRights t) := by
  refine .next (k.startHead fun ch => ?_)
  cases ch.op with
  | setRights => exact k.validated ch _ (k.applyRights ch _ _ _ _ _)
  | _ => exact k

theorem KeepsForm.execUnmap : NextKeepsForm s (execUnmap t) := by
  refine .next (k.startHead fun ch => ?_)
  cases ch.op with
  | unmap => exact k.validated ch _ (k.startHandover ch _ _ _ _ _)
  | _ => exact k

theorem KeepsForm.execTransfer : NextKeepsForm s (execTransfer t) := by
  refine .next (k.startHead fun ch => ?_)
  cases ch.op with
  | transfer => exact k.validated ch _ (k.startHandover ch _ _ _ _ _)
  | _ => exact k

theorem KeepsForm.execRelocate : NextKeepsForm s (execRelocate t) := by
  refine .next (k.startHead fun ch => ?_)
  cases ch.op with
  | relocate => exact k.validated ch _ (k.startRelocation ch _ _)
  | _ => exact k

/-- A command of the active handover, which does nothing while no change is active. -/
theorem KeepsForm.onHandover {act : Handover → State} (h : ∀ a, KeepsForm s (act a)) :
    KeepsForm s (match t.active with | none => t | some a => act a) := by
  cases t.active with
  | none => exact k
  | some a => exact h a

theorem KeepsForm.execConfirmTimerExpiry : NextKeepsForm s (execConfirmTimerExpiry t) :=
  .next (k.whenRunning (k.onHandover fun _ => .ite (k.rollback _ _) k))

theorem KeepsForm.execDrainTimerExpiry : NextKeepsForm s (execDrainTimerExpiry t) :=
  .next (k.whenRunning (k.onHandover fun _ => .ite (.ite (k.forceDrain _) (k.rollback _ _)) k))

theorem KeepsForm.execHandoverCommit : NextKeepsForm s (execHandoverCommit t) :=
  .next (k.whenRunning (k.onHandover fun _ => .ite (k.commitHandover _) k))

theorem KeepsForm.execPendingNoticeReoffer : NextKeepsForm s (execPendingNoticeReoffer t) :=
  .next (k.whenRunning (k.onHandover fun _ => .ite (k.offerPending _) k))

/-! ## The Copy Engine -/

theorem KeepsForm.execRelocationCommit : NextKeepsForm s (execRelocationCommit t) := by
  refine .next (k.whenRunning ?_)
  cases t.copyEngine with
  | running r => exact .ite (k.commitRelocation _) k
  | _ => exact k

theorem KeepsForm.execAbandonEnd : NextKeepsForm s (execAbandonEnd t) := by
  refine .next (k.whenRunning ?_)
  cases t.copyEngine with
  | running r =>
    dsimp only
    cases r.phase with
    | abandoning reason => exact .ite (k.endAbandon _ _) k
    | _ => exact k
  | _ => exact k

theorem KeepsForm.execEndRecordPost : NextKeepsForm s (execEndRecordPost t) := by
  refine .next (k.whenRunning ?_)
  cases t.copyEngine with
  | ending record => exact .ite ((k.same (by rfl)).postRecord _) k
  | _ => exact k

/-! ## Packets and link events -/

theorem KeepsForm.takeRequestPacket (p : PortId) (kind : ReqKind) (pkt : RawPacket) (ok : Bool) (mask : ByteMask) :
    NextKeepsForm s (t.takeRequestPacket p kind pkt ok mask) := by
  unfold State.takeRequestPacket
  split
  · split
    · split
      · exact .next (k.refuse p kind _ _)
      · exact .next k
      · rintro u ⟨⟩
    · unfold State.refuseMalformed
      cases readableTag pkt with
      | some tag => exact .next (k.refuse p kind _ _)
      | none => exact .next k
  · exact .next k

theorem KeepsForm.execNoticeAck (p : PortId) (pkt : RawPacket) : NextKeepsForm s (execNoticeAck p pkt t) := by
  refine .next (k.onPacket p (.ite ?_ k))
  cases ackSplit (packetTag pkt) (t.noticeQueue p).notices with
  | none => exact k
  | some lists => exact (k.same (by rfl)).reportAck p _

theorem KeepsForm.execLinkLost (p : PortId) : NextKeepsForm s (execLinkLost p t) := by
  refine .next (k.whenRunning ?_)
  cases (t.port p).state with
  | opened => exact k.resetPort p .down false
  | closing => exact k.resetPort p .down false
  | _ => exact k

/-! ## The channels -/

theorem KeepsForm.execAdmission (c : ChannelId) : NextKeepsForm s (execAdmission c t) := by
  refine .next (k.whenRunning ?_)
  cases (t.nextGrant c).bind positionPort with
  | none => exact k
  | some p =>
    dsimp only
    cases trackerCandidate (t.tracker p) c with
    | none => exact k
    | some e => exact k.admitEntry c p e

theorem KeepsForm.execCopyPairAdmission (c : ChannelId) : NextKeepsForm s (execCopyPairAdmission c t) := by
  refine .next (k.whenRunning (.ite ?_ k))
  cases t.copyCandidate with
  | none => exact k
  | some x =>
    dsimp only
    cases freePairNumber x.relocation.pairs with
    | none => exact k
    | some n => exact k.admitPair c x n

/-- An operation performed leaves its line written in canonical form (R102 to R105). -/
theorem KeepsForm.performed (c : ChannelId) (f : Operation → Bool) {m : Memory}
    (h : (t.channel c).memory.wf = true → m.wf = true) :
    KeepsForm s (t.setChannel c { (t.channel c).remove f with memory := m }) := k.setChannel c h

theorem KeepsForm.execReadComplete (c : ChannelId) (p : PortId) (tag : Byte) (media : MediaResult) :
    NextKeepsForm s (execReadComplete c p tag media t) := by
  refine .next (k.whenRunning ?_)
  dsimp only
  cases (t.channel c).completable (Operation.isRead p tag) with
  | none => exact k
  | some op =>
    exact ((k.performed c _ fun w => Memory.wf_afterRead w op.line _).countOutcome c _ _ _).applyFates p _

theorem KeepsForm.execWriteComplete (c : ChannelId) (p : PortId) (tag : Byte) (part : Option Part)
    (media : MediaResult) : NextKeepsForm s (execWriteComplete c p tag part media t) := by
  refine .next (k.whenRunning ?_)
  dsimp only
  cases (t.channel c).completable (Operation.isWrite p tag part) with
  | none => exact k
  | some op =>
    exact ((k.performed c _ fun w => Memory.wf_performWrite w op.line media op.action).countOutcome c _ _ _).applyFates
      p _

theorem KeepsForm.execCopyReadComplete (c : ChannelId) (pair : PairNumber) (media : MediaResult) :
    NextKeepsForm s (execCopyReadComplete c pair media t) := by
  refine .next (k.whenRunning ?_)
  dsimp only
  cases (t.channel c).completable (Operation.isCopyRead pair) with
  | none => exact k
  | some op =>
    exact ((k.performed c _ fun w => Memory.wf_afterRead w op.line _).countOutcome c _ _ _).copyReadDone pair _

theorem KeepsForm.execCopyWriteComplete (c : ChannelId) (pair : PairNumber) :
    NextKeepsForm s (execCopyWriteComplete c pair t) := by
  refine .next (k.whenRunning ?_)
  dsimp only
  cases (t.channel c).completable (Operation.isCopyWrite pair) with
  | none => exact k
  | some op =>
    dsimp only
    split
    · exact (k.performed c _ fun w => Memory.wf_write w op.line _).copyWriteDone pair
    · exact k

theorem KeepsForm.execDetectionEnd (c : ChannelId) (slot0 slot1 slot2 slot3 : SlotReport) :
    NextKeepsForm s (execDetectionEnd c slot0 slot1 slot2 slot3 t) := by
  refine .next (k.whenRunning ?_)
  cases (t.channel c).state with
  | detecting => exact k.endDetection c _ _ _
  | _ => exact k

theorem KeepsForm.execFillEnd (c : ChannelId) : NextKeepsForm s (execFillEnd c t) :=
  .next (k.whenRunning (.ite (k.setChannel c fun _ => Memory.wf_filled _) k))

theorem KeepsForm.execChannelFault (c : ChannelId) : NextKeepsForm s (execChannelFault c t) := by
  refine .next ?_
  cases t.power with
  | off => exact k
  | inReset => exact .ite (k.setChannel c id) k
  | running => exact k.faultEvent c

/-! ## Power and reset -/

theorem KeepsForm.execResetNFallingEdge : NextKeepsForm s (execResetNFallingEdge t) :=
  .next (.ite ((k.same (by rfl)).beginReset _) k)

theorem KeepsForm.execResetNRise (straps : Straps) : NextKeepsForm s (execResetNRise straps t) :=
  .next (.ite ((k.same (by rfl)).endReset straps) k)

theorem KeepsForm.execBridgeReset (path : MgmtPath) : NextKeepsForm s (execBridgeReset path t) := by
  refine .next (k.request path _ fun u j => ?_)
  cases path with
  | i2c => exact j.beginReset _
  | inBand p => exact j

/-! ## Requests -/

/-- A request that is the holder's alone and has no operand tested before (R177). -/
theorem KeepsForm.holderRequest (path : MgmtPath) (kind : Byte) {act : State → State × Reply}
    (h : ∀ u, KeepsForm s u → KeepsForm s (act u).1) :
    NextKeepsForm s (.next (t.request path kind fun u => u.holderOnly path act)) :=
  .next (k.request path kind fun u j => j.holderOnly path (h u j))

theorem KeepsForm.report (data : List Byte) : KeepsForm s (t.report data).1 := k

theorem KeepsForm.execReadExtent (path : MgmtPath) (extent : Byte) :
    NextKeepsForm s (execReadExtent path extent t) := by
  refine .next (k.request path _ fun u j => ?_)
  cases extentOperand extent with
  | none => exact j
  | some x => exact j.report _

theorem KeepsForm.execReadPort (path : MgmtPath) (port clear : Byte) :
    NextKeepsForm s (execReadPort path port clear t) := by
  refine .next (k.request path _ fun u j => ?_)
  split
  · exact j.report _
  · exact j.holderOnly path ((j.same (by rfl)).report _)
  · exact j

theorem KeepsForm.execReadChannel (path : MgmtPath) (channel : Byte) :
    NextKeepsForm s (execReadChannel path channel t) := by
  refine .next (k.request path _ fun u j => ?_)
  cases channelOperand channel with
  | none => exact j
  | some c => exact j.report _

theorem KeepsForm.execPeekCompletion (path : MgmtPath) : NextKeepsForm s (execPeekCompletion path t) := by
  refine .next (k.request path _ fun u j => ?_)
  cases u.completions <;> exact j

theorem KeepsForm.execSubmit (path : MgmtPath) (operands : SubmitOperands) :
    NextKeepsForm s (execSubmit path operands t) := by
  refine k.holderRequest path _ fun u j => ?_
  cases operands.change? with
  | none => exact j
  | some op => exact .iteFst j j

theorem KeepsForm.execCancel (path : MgmtPath) (id : BitVec 16) : NextKeepsForm s (execCancel path id t) := by
  refine k.holderRequest path _ fun u j => ?_
  cases u.active with
  | none => exact j.cancelWaiting _
  | some h => exact .iteFst (j.rollback _ _) (j.cancelWaiting _)

theorem KeepsForm.execPopCompletion (path : MgmtPath) : NextKeepsForm s (execPopCompletion path t) := by
  refine k.holderRequest path _ fun u j => ?_
  cases u.completions <;> exact j

theorem KeepsForm.execAbortRelocation (path : MgmtPath) (extent : Byte) :
    NextKeepsForm s (execAbortRelocation path extent t) := by
  refine .next (k.request path _ fun u j => ?_)
  cases extentOperand extent with
  | none => exact j
  | some x =>
    refine j.holderOnly path ?_
    cases u.copyEngine with
    | running r =>
      refine .iteFst ?_ j
      cases r.phase <;> exact j
    | _ => exact j

theorem KeepsForm.clearErrorsOf (c : ChannelId) : KeepsForm s (t.clearErrorsOf c) := k.setChannel c id

theorem KeepsForm.execClearErrors (path : MgmtPath) (selector : Byte) :
    NextKeepsForm s (execClearErrors path selector t) := by
  refine .next (k.request path _ fun u j => ?_)
  split
  · exact j.holderOnly path (j.clearErrorsOf 0)
  · exact j.holderOnly path (j.clearErrorsOf 1)
  · exact j.holderOnly path ((j.clearErrorsOf 0).clearErrorsOf 1)
  · exact j

theorem KeepsForm.execSetLayout (path : MgmtPath) (index : Byte) (limit : BitVec 16) (mode : Byte) :
    NextKeepsForm s (execSetLayout path index limit mode t) := by
  refine k.holderRequest path _ fun u j => .iteFst j (.iteFst j ?_)
  split <;> exact j

theorem KeepsForm.execPoolCommit (path : MgmtPath) : NextKeepsForm s (execPoolCommit path t) := by
  refine k.holderRequest path _ fun u j => .iteFst j ?_
  cases u.commitRefusal <;> exact j

theorem KeepsForm.execChannelOnline (path : MgmtPath) (channel : Byte) :
    NextKeepsForm s (execChannelOnline path channel t) := by
  refine .next (k.request path _ fun u j => ?_)
  cases channelOperand channel with
  | none => exact j
  | some c =>
    refine j.holderOnly path ?_
    cases (u.channel c).state with
    | offline => exact j.setChannel c id
    | faulted => exact j.setChannel c id
    | _ => exact j

theorem KeepsForm.execChannelOffline (path : MgmtPath) (channel : Byte) :
    NextKeepsForm s (execChannelOffline path channel t) := by
  refine .next (k.request path _ fun u j => ?_)
  cases channelOperand channel with
  | none => exact j
  | some c =>
    refine j.holderOnly path (.iteFst j (.iteFst j ?_))
    cases (u.channel c).state with
    | detecting => exact j
    | _ => exact j.takeOffline c

theorem KeepsForm.execPortEnable (path : MgmtPath) (port : Byte) : NextKeepsForm s (execPortEnable path port t) := by
  refine .next (k.request path _ fun u j => ?_)
  cases portOperand port with
  | none => exact j
  | some p => exact j.holderOnly path (.iteFst j j)

theorem KeepsForm.execPortDisable (path : MgmtPath) (port : Byte) : NextKeepsForm s (execPortDisable path port t) := by
  refine .next (k.request path _ fun u j => ?_)
  cases portOperand port with
  | none => exact j
  | some p => exact j.holderOnly path (j.clearOrReset p _)

theorem KeepsForm.execPortReset (path : MgmtPath) (port : Byte) : NextKeepsForm s (execPortReset path port t) := by
  refine .next (k.request path _ fun u j => ?_)
  cases portOperand port with
  | none => exact j
  | some p => exact j.holderOnly path (j.clearOrReset p _)

theorem KeepsForm.execSetOffer (path : MgmtPath) (port readOffer writeOffer : Byte) :
    NextKeepsForm s (execSetOffer path port readOffer writeOffer t) := by
  refine .next (k.request path _ fun u j => ?_)
  cases portOperand port with
  | none => exact j
  | some p =>
    refine j.holderOnly path ?_
    split
    · exact .iteFst j j
    · exact j

theorem KeepsForm.execSetTimers (path : MgmtPath) (confirm drain : BitVec 16) (bringUp : Byte) (writeData : BitVec 16) :
    NextKeepsForm s (execSetTimers path confirm drain bringUp writeData t) := by
  refine k.holderRequest path _ fun u j => ?_
  cases u.limits.update confirm.toNat drain.toNat bringUp.toNat writeData.toNat <;> exact j

theorem KeepsForm.execSetPreserve (path : MgmtPath) (value : Byte) :
    NextKeepsForm s (execSetPreserve path value t) := by
  refine .next (k.request path _ fun u j => ?_)
  cases flagOperand value with
  | none => exact j
  | some b => exact j.holderOnly path j

/-! ## The manager role -/

theorem KeepsForm.execClaim (path : MgmtPath) : NextKeepsForm s (execClaim path t) := by
  have claimed {u : State} (j : KeepsForm s u) : KeepsForm s (u.claimFor path).1 := .iteFst j (.iteFst j j)
  refine .next (k.request path _ fun u j => ?_)
  cases path with
  | i2c => exact claimed j
  | inBand p => exact .iteFst j (.iteFst j (claimed j))

theorem KeepsForm.execBreakRole (path : MgmtPath) : NextKeepsForm s (execBreakRole path t) := by
  refine .next (k.request path _ fun u j => ?_)
  cases path with
  | inBand p => exact j
  | i2c =>
    dsimp only
    split
    · exact (j.same (by rfl)).offerNotice _ _
    · exact j
    · exact j

theorem KeepsForm.execSetEligible (path : MgmtPath) (value : Byte) :
    NextKeepsForm s (execSetEligible path value t) := by
  refine .next (k.request path _ fun u j => .iteFst j ?_)
  cases path with
  | inBand p => exact j
  | i2c => exact .iteFst j j

end

/-! ## Every command -/

/-- Every command leaves the waiting commands alone and keeps canonical contents canonical. -/
theorem exec_keepsForm (c : Instr) (s : State) : NextKeepsForm s (exec c s) := by
  have k := KeepsForm.refl s
  cases c with
  | powerOn straps => exact .next (k.atPowerOn _ straps)
  | pwrgoodDeasserted => exact .next (k.atPowerOn .off s.straps)
  | resetNFallingEdge => exact k.execResetNFallingEdge
  | resetNRise straps => exact k.execResetNRise straps
  | bridgeReset path => exact k.execBridgeReset path
  | bridgeResetEnd straps => exact .next (.ite (k.endReset straps) k)
  | partnerDetected p => exact .next (k.whenRunning (.ite k k))
  | trainingComplete p => exact .next (k.whenRunning (.ite k k))
  | trainingFailed p => exact .next k
  | linkLost p => exact k.execLinkLost p
  | bringUpTimerExpiry p => exact .next (k.whenRunning (.ite k k))
  | packetCrcDrop p bytes => exact .next (k.onPacket p (.ite k k))
  | undefinedPacket p kind pkt => exact .next (k.onPacket p (.ite k k))
  | read p pkt => exact k.takeRequestPacket p _ pkt _ _
  | write p pkt => exact k.takeRequestPacket p _ pkt _ _
  | wdata p pkt => exact .next (k.onPacket p (.ite (k.takeData p _ _ _) k))
  | writeDataTimerExpiry p tag => exact .next (k.whenRunning (k.applyFates p _))
  | noticeAck p pkt => exact k.execNoticeAck p pkt
  | windowAccept p value => exact .next (k.onPacket p (k.writeWindowAccept p value))
  | portOpen p value => exact .next (k.onPacket p (k.writePortOpen p value))
  | portClose p value => exact .next (k.onPacket p (k.writePortClose p))
  | configWrite p access => exact .next (k.onPacket p (k.configAccess p access))
  | closeComplete p => exact .next (k.whenRunning (k.completeClose p))
  | admission c => exact k.execAdmission c
  | copyPairAdmission c => exact k.execCopyPairAdmission c
  | readComplete c p tag media => exact k.execReadComplete c p tag media
  | writeComplete c p tag part media => exact k.execWriteComplete c p tag part media
  | copyReadComplete c pair media => exact k.execCopyReadComplete c pair media
  | copyWriteComplete c pair => exact k.execCopyWriteComplete c pair
  | detectionEnd c slot0 slot1 slot2 slot3 => exact k.execDetectionEnd c slot0 slot1 slot2 slot3
  | fillEnd c => exact k.execFillEnd c
  | channelFault c => exact k.execChannelFault c
  | confirmTimerExpiry => exact k.execConfirmTimerExpiry
  | drainTimerExpiry => exact k.execDrainTimerExpiry
  | handoverCommit => exact k.execHandoverCommit
  | create => exact k.execCreate
  | retire => exact k.execRetire
  | map => exact k.execMap
  | setShare => exact k.execSetShare
  | setWindow => exact k.execSetWindow
  | setRights => exact k.execSetRights
  | unmap => exact k.execUnmap
  | transfer => exact k.execTransfer
  | relocate => exact k.execRelocate
  | pendingNoticeReoffer => exact k.execPendingNoticeReoffer
  | relocationCommit => exact k.execRelocationCommit
  | abandonEnd => exact k.execAbandonEnd
  | endRecordPost => exact k.execEndRecordPost
  | readStatus path => exact .next (k.request path _ fun _ j => j.report _)
  | readExtent path extent => exact k.execReadExtent path extent
  | readLayout path => exact .next (k.request path _ fun _ j => j.report _)
  | readPort path port clear => exact k.execReadPort path port clear
  | readChannel path channel => exact k.execReadChannel path channel
  | readErrors path => exact .next (k.request path _ fun _ j => j.report _)
  | peekCompletion path => exact k.execPeekCompletion path
  | submit path operands => exact k.execSubmit path operands
  | cancel path id => exact k.execCancel path id
  | popCompletion path => exact k.execPopCompletion path
  | abortRelocation path extent => exact k.execAbortRelocation path extent
  | clearErrors path selector => exact k.execClearErrors path selector
  | clearInterrupted path => exact k.holderRequest path _ fun _ j => j
  | setLayout path index limit mode => exact k.execSetLayout path index limit mode
  | clearLayout path => exact k.holderRequest path _ fun _ j => .iteFst j j
  | poolCommit path => exact k.execPoolCommit path
  | poolTeardown path => exact k.holderRequest path _ fun _ j => .iteFst (.iteFst j j) j
  | channelOnline path channel => exact k.execChannelOnline path channel
  | channelOffline path channel => exact k.execChannelOffline path channel
  | portEnable path port => exact k.execPortEnable path port
  | portDisable path port => exact k.execPortDisable path port
  | portReset path port => exact k.execPortReset path port
  | setOffer path port readOffer writeOffer => exact k.execSetOffer path port readOffer writeOffer
  | setTimers path confirm drain bringUp writeData => exact k.execSetTimers path confirm drain bringUp writeData
  | setPreserve path value => exact k.execSetPreserve path value
  | claim path => exact k.execClaim path
  | release path => exact k.holderRequest path _ fun _ j => j
  | breakRole path => exact k.execBreakRole path
  | setEligible path value => exact k.execSetEligible path value
  | mgmtBadRequest frame => exact .next (.ite k (k.request _ _ fun _ j => j))

/-- Settles O53: every command keeps the form, and taking a command off the queue touches no channel. -/
theorem stepKeepsMemoryLaw : Obligations.StepKeepsMemoryLaw := by
  intro s t l h
  unfold step at h
  split at h
  · cases h; exact l
  · next rest _ =>
    have taken : ({ s with pending := rest } : State).memoryLaw := l
    exact (exec_keepsForm _ _ t h).memoryLaw taken

/-- Settles O2: the waiting commands are part of what every command keeps. -/
theorem commandsLeaveTheQueue : Obligations.CommandsLeaveTheQueue := fun c s t h => (exec_keepsForm c s t h).1

/-- Settles O1: the front command finds the queue as it is without it. -/
theorem stepRunsFrontCommand : Obligations.StepRunsFrontCommand := by
  refine ⟨fun c s => rfl, fun s empty => ?_⟩
  unfold step
  rw [empty]

end Sys2Proof.Machine
end
